-- ==== Sys2Proof/Word.lean ====
section
/-! DEFINITION. The word types of the machine: what the spec treats as bits (R10, R41, R61, R63). -/

namespace Sys2Proof

/-- One byte of the address space (R40). -/
abbrev Byte := BitVec 8

/-- A 64-bit cell: a register, an operand slot, a bus address (R10, R40, R63). -/
abbrev Word := BitVec 64

/-- The 32-bit instruction word, the dispatch key (R61). -/
abbrev Key := BitVec 32

/-- The 16-bit mode field read at `slot(2)` (R64). -/
abbrev ModeField := BitVec 16

/-- One 3-bit addressing-mode selector (R61). -/
abbrev Selector := BitVec 3

end Sys2Proof
end

