-- ==== Sys2Proof/Machine/Alu.lean ====
section
/-! DEFINITION. The integer ALU: the functions of the arithmetic, bitwise and shift rules, on 64-bit values and the
carry. The shifts and rotates are given twice: in the closed form the rules give (what the instructions compute) and as
the one-bit step of R121 to R129, repeated (`repeatBit`), which defines them. -/

namespace Sys2Proof.Machine.Alu

/-- A carry as a number, 0 or 1 (R114, R115). -/
def carryWord (c : Bool) : Word := if c then 1 else 0

/-- R112 -/
def add (a b : Word) (_c : Bool) : Word := a + b

/-- R113 -/
def sub (a b : Word) (_c : Bool) : Word := a - b

/-- R114 -/
def adc (a b : Word) (c : Bool) : Word := a + b + carryWord c

/-- R115 -/
def sbb (a b : Word) (c : Bool) : Word := a - b - carryWord c

/-- R116 -/
def band (a b : Word) (_c : Bool) : Word := a &&& b

/-- R117 -/
def bor (a b : Word) (_c : Bool) : Word := a ||| b

/-- R118 -/
def bxor (a b : Word) (_c : Bool) : Word := a ^^^ b

/-- R119 -/
def bnot (a : Word) : Word := ~~~a

/-- R120 -/
def neg (a : Word) : Word := 0 - a

/-! ## Shifts and rotates: value, count, carry to value, carry. The count is all 64 bits, not masked (R121, D10). -/

/-- The closed form of R122. -/
def shl (a n : Word) (c : Bool) : Word × Bool :=
  if n = 0 then (a, c)
  else if n.toNat < 64 then (a <<< n.toNat, a.getLsbD (64 - n.toNat))
  else if n = 64 then (0, a.getLsbD 0)
  else (0, false)

/-- The closed form of R123. -/
def shr (a n : Word) (c : Bool) : Word × Bool :=
  if n = 0 then (a, c)
  else if n.toNat < 64 then (a >>> n.toNat, a.getLsbD (n.toNat - 1))
  else if n = 64 then (0, a.getLsbD 63)
  else (0, false)

/-- R124: exactly the function of `shl`. -/
def sal (a n : Word) (c : Bool) : Word × Bool := shl a n c

/-- The closed form of R125: bits `63 : 64 - n` take the sign. -/
def sar (a n : Word) (c : Bool) : Word × Bool :=
  if n = 0 then (a, c)
  else if n.toNat < 64 then (a.sshiftRight n.toNat, a.getLsbD (n.toNat - 1))
  else (if a.getLsbD 63 then BitVec.allOnes 64 else 0, a.getLsbD 63)

/-- The closed form of R126. -/
def rol (a n : Word) (c : Bool) : Word × Bool :=
  if n = 0 then (a, c)
  else (a.rotateLeft (n.toNat % 64), (a.rotateLeft (n.toNat % 64)).getLsbD 0)

/-- The closed form of R127. -/
def ror (a n : Word) (c : Bool) : Word × Bool :=
  if n = 0 then (a, c)
  else (a.rotateRight (n.toNat % 64), (a.rotateRight (n.toNat % 64)).getLsbD 63)

/-- The 65-bit quantity `C ++ a` of R128 and R129. -/
def withCarry (a : Word) (c : Bool) : BitVec 65 := BitVec.ofBool c ++ a

/-- The value and the carry in a 65-bit quantity. -/
def splitCarry (x : BitVec 65) : Word × Bool := (x.extractLsb' 0 64, x.getLsbD 64)

/-- The closed form of R128: 65 bits rotated left by `n mod 65`. -/
def rcl (a n : Word) (c : Bool) : Word × Bool := splitCarry ((withCarry a c).rotateLeft (n.toNat % 65))

/-- The closed form of R129: 65 bits rotated right by `n mod 65`. -/
def rcr (a n : Word) (c : Bool) : Word × Bool := splitCarry ((withCarry a c).rotateRight (n.toNat % 65))

/-! ## The one-bit steps that define them (R121) -/

/-- `n` repetitions of a one-bit step (R121). -/
def repeatBit (f : Word × Bool → Word × Bool) : Nat → Word × Bool → Word × Bool
  | 0, x => x
  | n + 1, x => repeatBit f n (f x)

/-- `c <- a[63]; a <- (a << 1) mod 2^64` (R122). -/
def shlBit (x : Word × Bool) : Word × Bool := (x.1 <<< 1, x.1.getLsbD 63)

/-- `c <- a[0]; a <- a >> 1` (R123). -/
def shrBit (x : Word × Bool) : Word × Bool := (x.1 >>> 1, x.1.getLsbD 0)

/-- `c <- a[0]; a <- (a >> 1) | (a & 0x8000_0000_0000_0000)` (R125). -/
def sarBit (x : Word × Bool) : Word × Bool := ((x.1 >>> 1) ||| (x.1 &&& 0x8000000000000000), x.1.getLsbD 0)

/-- `c <- a[63]; a <- ((a << 1) mod 2^64) | c` (R126). -/
def rolBit (x : Word × Bool) : Word × Bool := ((x.1 <<< 1) ||| carryWord (x.1.getLsbD 63), x.1.getLsbD 63)

/-- `c <- a[0]; a <- (a >> 1) | (c << 63)` (R127). -/
def rorBit (x : Word × Bool) : Word × Bool := ((x.1 >>> 1) ||| (carryWord (x.1.getLsbD 0) <<< 63), x.1.getLsbD 0)

/-- `t <- a[63]; a <- ((a << 1) mod 2^64) | c; c <- t` (R128). -/
def rclBit (x : Word × Bool) : Word × Bool := ((x.1 <<< 1) ||| carryWord x.2, x.1.getLsbD 63)

/-- `t <- a[0]; a <- (a >> 1) | (c << 63); c <- t` (R129). -/
def rcrBit (x : Word × Bool) : Word × Bool := ((x.1 >>> 1) ||| (carryWord x.2 <<< 63), x.1.getLsbD 0)

end Sys2Proof.Machine.Alu
end

