-- ==== Sys2Proof/Syntax.lean ====
section
/-! DEFINITION. The instructions: one constructor per mnemonic of spec/opcode_table.json. The arguments of a
constructor are the selectors of the key (R61), so every one of the table's 152 rows is one value of `Instr`
(log 18). Operand values are no part of an instruction word; they stand in slots of their own (R60). The names that the
numbering tables of R3 number stand here too: mnemonics, registers, flags. -/

namespace Sys2Proof

/-- The closed set of six addressing modes (R63, R65). -/
inductive Mode where
  /-- immediate: the operand value is the literal -/
  | imm
  /-- register-direct: the operand value is a register index -/
  | rd
  /-- direct: the operand value is an address -/
  | dir
  /-- register-indirect: the operand value is the index of a register that holds an address -/
  | ri
  /-- indexed: the operand value is an offset from r6 -/
  | idx
  /-- based-indexed: the operand value is the index of a register whose value is an offset from r6 -/
  | bix
  deriving DecidableEq, Repr

/-- The instruction set of R2 and R66, with the selectors its key carries (R61, R67). -/
inductive Instr where
  | nop
  | hlt
  | add (sel1 sel2 : Mode)
  | sub (sel1 sel2 : Mode)
  | adc (sel1 sel2 : Mode)
  | sbb (sel1 sel2 : Mode)
  | and (sel1 sel2 : Mode)
  | or (sel1 sel2 : Mode)
  | xor (sel1 sel2 : Mode)
  | not (sel1 : Mode)
  | neg (sel1 : Mode)
  | shl (sel1 sel2 : Mode)
  | shr (sel1 sel2 : Mode)
  | sal (sel1 sel2 : Mode)
  | sar (sel1 sel2 : Mode)
  | rol (sel1 sel2 : Mode)
  | ror (sel1 sel2 : Mode)
  | rcl (sel1 sel2 : Mode)
  | rcr (sel1 sel2 : Mode)
  | cmp (sel1 sel2 : Mode)
  | test (sel1 sel2 : Mode)
  | xchg (sel1 sel2 : Mode)
  | xadd (sel1 sel2 : Mode)
  | cmpxchg (sel1 sel2 : Mode)
  | cmpxchg8b (sel1 sel2 : Mode)
  | cmpsb (sel1 sel2 : Mode)
  | cmpsw (sel1 sel2 : Mode)
  | cmpsd (sel1 sel2 : Mode)
  | cmpsq (sel1 sel2 : Mode)
  deriving DecidableEq, Repr

/-- The 29 mnemonics (R2), in the order of R66. -/
inductive Mnemonic where
  | nop | hlt | add | sub | adc | sbb | and | or | xor | not | neg | shl | shr | sal | sar
  | rol | ror | rcl | rcr | cmp | test | xchg | xadd | cmpxchg | cmpxchg8b | cmpsb | cmpsw | cmpsd | cmpsq
  deriving DecidableEq, Repr

/-- All mnemonics. -/
def Mnemonic.all : List Mnemonic :=
  [.nop, .hlt, .add, .sub, .adc, .sbb, .and, .or, .xor, .not, .neg, .shl, .shr, .sal, .sar, .rol, .ror, .rcl, .rcr,
   .cmp, .test, .xchg, .xadd, .cmpxchg, .cmpxchg8b, .cmpsb, .cmpsw, .cmpsd, .cmpsq]

/-- The mnemonic of an instruction. -/
def Instr.mnemonic : Instr → Mnemonic
  | .nop => .nop
  | .hlt => .hlt
  | .add _ _ => .add
  | .sub _ _ => .sub
  | .adc _ _ => .adc
  | .sbb _ _ => .sbb
  | .and _ _ => .and
  | .or _ _ => .or
  | .xor _ _ => .xor
  | .not _ => .not
  | .neg _ => .neg
  | .shl _ _ => .shl
  | .shr _ _ => .shr
  | .sal _ _ => .sal
  | .sar _ _ => .sar
  | .rol _ _ => .rol
  | .ror _ _ => .ror
  | .rcl _ _ => .rcl
  | .rcr _ _ => .rcr
  | .cmp _ _ => .cmp
  | .test _ _ => .test
  | .xchg _ _ => .xchg
  | .xadd _ _ => .xadd
  | .cmpxchg _ _ => .cmpxchg
  | .cmpxchg8b _ _ => .cmpxchg8b
  | .cmpsb _ _ => .cmpsb
  | .cmpsw _ _ => .cmpsw
  | .cmpsd _ _ => .cmpsd
  | .cmpsq _ _ => .cmpsq

/-- The instruction with this mnemonic and these selectors; a selector that the mnemonic does not take is dropped. -/
def Mnemonic.instr (m : Mnemonic) (a b : Mode) : Instr :=
  match m with
  | .nop => .nop
  | .hlt => .hlt
  | .add => .add a b
  | .sub => .sub a b
  | .adc => .adc a b
  | .sbb => .sbb a b
  | .and => .and a b
  | .or => .or a b
  | .xor => .xor a b
  | .not => .not a
  | .neg => .neg a
  | .shl => .shl a b
  | .shr => .shr a b
  | .sal => .sal a b
  | .sar => .sar a b
  | .rol => .rol a b
  | .ror => .ror a b
  | .rcl => .rcl a b
  | .rcr => .rcr a b
  | .cmp => .cmp a b
  | .test => .test a b
  | .xchg => .xchg a b
  | .xadd => .xadd a b
  | .cmpxchg => .cmpxchg a b
  | .cmpxchg8b => .cmpxchg8b a b
  | .cmpsb => .cmpsb a b
  | .cmpsw => .cmpsw a b
  | .cmpsd => .cmpsd a b
  | .cmpsq => .cmpsq a b

/-- All addressing modes. -/
def Mode.all : List Mode := [.imm, .rd, .dir, .ri, .idx, .bix]

end Sys2Proof

namespace Sys2Proof.Machine

/-- The 11 slots of the register bank by name (R10, R11). -/
inductive Reg where
  | r0 | r1 | r2 | r3 | r4 | r5 | r6 | r7 | sp | pc | flags
  deriving DecidableEq, Repr

/-- The nine named flags (R18). -/
inductive Flag where
  /-- C -/
  | carry
  /-- Z -/
  | zero
  /-- I -/
  | irqEnable
  /-- D -/
  | decimal
  /-- B -/
  | brk
  /-- U -/
  | unused
  /-- V -/
  | overflow
  /-- N -/
  | negative
  /-- ILL -/
  | illegal
  deriving DecidableEq, Repr

end Sys2Proof.Machine
end

