-- ==== Sys2Proof/Config.lean ====
section
/-! DEFINITION. The implementation parameters of R3: one record that holds every number and every table the spec calls its
own choice, each once, and the values the spec takes for them. All the rest of the model reads them here: `Mode.tag` and
`Mode.ofTag`, `Instr.opcode` and the decoder, `Instr.menu`, `Reg.index`, `Flag.position`, the slots and the vectors. The
parameters that R3 takes from the document (the widths of words, addresses, keys and selectors) are the types of Word.lean. -/

namespace Sys2Proof

/-- A menu: the combinations of selectors (operand 1, operand 2) with an entry in the dispatch table (R67). -/
abbrev Menu := List (Mode × Mode)

/-- The named parameters of R3, kept in one record so that they are changed in one place. -/
structure Params where
  /-- `SLOT`: the distance between two consecutive operand slots (R46, D1). -/
  slot : Word
  /-- `IRQ_VECTOR_BASE` (R161, D21). -/
  irqVectorBase : Word
  /-- `NMI_VECTOR_BASE` (R161, D21). -/
  nmiVectorBase : Word
  /-- The register indices (R11, D3). -/
  registerIndex : Machine.Reg → Nat
  /-- The flag bit positions (R18, D4). -/
  flagPosition : Machine.Flag → Nat
  /-- The mode tags (R63, R65, D5). -/
  modeTag : Mode → Selector
  /-- The opcode numbers (R66, D6). -/
  opcode : Mnemonic → BitVec 16
  /-- The mode menus (R67, D7). -/
  menu : Mnemonic → Menu

/-- M0, the zero-operand instructions: "a single entry with empty mode bits" (R67). -/
def Config.menuM0 : Menu := [(.imm, .imm)]

/-- M6, the two-operand instructions that write at most operand 1 (R67). -/
def Config.menuM6 : Menu := [(.rd, .rd), (.dir, .rd), (.rd, .dir), (.rd, .imm), (.ri, .imm), (.dir, .imm)]

/-- M3, the instructions that write both operands (R67). -/
def Config.menuM3 : Menu := [(.rd, .rd), (.dir, .rd), (.rd, .dir)]

/-- M1, the one-operand instructions; `sel2` is 0 (R67). -/
def Config.menuM1 : Menu := [(.rd, .imm), (.dir, .imm), (.ri, .imm)]

/-- The values R3 takes (log 9, log 10: the spec's defaults, other values being admissible; log 11: the spec's own
numbering). -/
def Config.params : Params where
  slot := 8
  irqVectorBase := 0x00000000FFFF0000
  nmiVectorBase := 0x00000000FFFF8000
  registerIndex
    | .r0 => 0 | .r1 => 1 | .r2 => 2 | .r3 => 3 | .r4 => 4 | .r5 => 5 | .r6 => 6 | .r7 => 7
    | .sp => 8 | .pc => 9 | .flags => 10
  flagPosition
    | .carry => 0 | .zero => 1 | .irqEnable => 2 | .decimal => 3 | .brk => 4 | .unused => 5 | .overflow => 6
    | .negative => 7 | .illegal => 8
  modeTag
    | .imm => 0 | .rd => 1 | .dir => 2 | .ri => 3 | .idx => 4 | .bix => 5
  opcode
    | .nop => 0x0000
    | .hlt => 0x0001
    | .add => 0x0002
    | .sub => 0x0003
    | .adc => 0x0004
    | .sbb => 0x0005
    | .and => 0x0006
    | .or => 0x0007
    | .xor => 0x0008
    | .not => 0x0009
    | .neg => 0x000A
    | .shl => 0x000B
    | .shr => 0x000C
    | .sal => 0x000D
    | .sar => 0x000E
    | .rol => 0x000F
    | .ror => 0x0010
    | .rcl => 0x0011
    | .rcr => 0x0012
    | .cmp => 0x0013
    | .test => 0x0014
    | .xchg => 0x0015
    | .xadd => 0x0016
    | .cmpxchg => 0x0017
    | .cmpxchg8b => 0x0018
    | .cmpsb => 0x0019
    | .cmpsw => 0x001A
    | .cmpsd => 0x001B
    | .cmpsq => 0x001C
  menu
    | .nop => Config.menuM0
    | .hlt => Config.menuM0
    | .add => Config.menuM6
    | .sub => Config.menuM6
    | .adc => Config.menuM6
    | .sbb => Config.menuM6
    | .and => Config.menuM6
    | .or => Config.menuM6
    | .xor => Config.menuM6
    | .not => Config.menuM1
    | .neg => Config.menuM1
    | .shl => Config.menuM6
    | .shr => Config.menuM6
    | .sal => Config.menuM6
    | .sar => Config.menuM6
    | .rol => Config.menuM6
    | .ror => Config.menuM6
    | .rcl => Config.menuM6
    | .rcr => Config.menuM6
    | .cmp => Config.menuM6
    | .test => Config.menuM6
    | .xchg => Config.menuM3
    | .xadd => Config.menuM3
    | .cmpxchg => Config.menuM6
    | .cmpxchg8b => Config.menuM6
    | .cmpsb => Config.menuM6
    | .cmpsw => Config.menuM6
    | .cmpsd => Config.menuM6
    | .cmpsq => Config.menuM6

/-- What an address that the memory does not list reads as: 0 (R57; log 2, DESIGN CHOICE). -/
def Config.unlistedByte : Byte := 0

end Sys2Proof
end

