-- ==== Sys2Proof/WellFormed.lean ====
section
/-! DEFINITION. Which instructions have an entry in the dispatch table: those whose selectors are in their
mnemonic's menu (R67, R68). -/

namespace Sys2Proof

/-- The two selectors in the instruction's key; an operand that the mnemonic does not have has selector 0 (R67). -/
def Instr.selectors : Instr → Mode × Mode
  | .nop => (.imm, .imm)
  | .hlt => (.imm, .imm)
  | .add a b => (a, b)
  | .sub a b => (a, b)
  | .adc a b => (a, b)
  | .sbb a b => (a, b)
  | .and a b => (a, b)
  | .or a b => (a, b)
  | .xor a b => (a, b)
  | .not a => (a, .imm)
  | .neg a => (a, .imm)
  | .shl a b => (a, b)
  | .shr a b => (a, b)
  | .sal a b => (a, b)
  | .sar a b => (a, b)
  | .rol a b => (a, b)
  | .ror a b => (a, b)
  | .rcl a b => (a, b)
  | .rcr a b => (a, b)
  | .cmp a b => (a, b)
  | .test a b => (a, b)
  | .xchg a b => (a, b)
  | .xadd a b => (a, b)
  | .cmpxchg a b => (a, b)
  | .cmpxchg8b a b => (a, b)
  | .cmpsb a b => (a, b)
  | .cmpsw a b => (a, b)
  | .cmpsd a b => (a, b)
  | .cmpsq a b => (a, b)

/-- The menu of an instruction's mnemonic (R66, R67). -/
def Instr.menu (i : Instr) : Menu := Config.params.menu i.mnemonic

/-- An instruction is well formed when its selectors are in its menu, that is when its key is one of the 152
entries of the dispatch table (R68). -/
def Instr.wellFormed (i : Instr) : Bool := i.menu.contains i.selectors

end Sys2Proof
end

