-- ==== Sys2Proof/Decode.lean ====
section
/-! DEFINITION. The dispatch lookup (R69, R85), total on any bytes and rejecting by name, and after it the encoder.
The numbers are those of `Config.params`; the inverse tables are searched, not written a second time. -/

namespace Sys2Proof

/-- The mode tag of each addressing mode (R63, D5). -/
def Mode.tag (m : Mode) : Selector := Config.params.modeTag m

/-- The mode a selector names; 6 and 7 name none (R63). -/
def Mode.ofTag (t : Selector) : Option Mode := Mode.all.find? fun m => m.tag = t

/-- The mnemonic with this opcode number, if it is assigned (R66). -/
def Mnemonic.ofOpcode (op : BitVec 16) : Option Mnemonic := Mnemonic.all.find? fun m => Config.params.opcode m = op

/-- Why a word is no instruction. The machine treats every one of them as `IllegalInstruction` (R70, U6). -/
inductive Reject where
  /-- fewer than the four bytes of a key -/
  | truncated
  /-- one of the bits 15:9 is set (R69) -/
  | reservedBitsSet
  /-- `sel3` is not 0 (R68, R76) -/
  | thirdSelectorSet
  /-- a selector is 6 or 7, which no menu holds (R67, R71) -/
  | noSuchMode
  /-- the opcode is not assigned (R66) -/
  | unassignedOpcode
  /-- the selectors are not in the menu of the opcode (R67, R69) -/
  | notInMenu
  deriving DecidableEq, Repr

/-- Bits 31:16 of a key (R61). -/
def Key.opcode (w : Key) : BitVec 16 := w.extractLsb' 16 16

/-- Bits 15:9 of a key (R61). -/
def Key.reserved (w : Key) : BitVec 7 := w.extractLsb' 9 7

/-- Bits 8:6 of a key (R61). -/
def Key.sel3 (w : Key) : Selector := w.extractLsb' 6 3

/-- Bits 5:3 of a key (R61). -/
def Key.sel2 (w : Key) : Selector := w.extractLsb' 3 3

/-- Bits 2:0 of a key (R61). -/
def Key.sel1 (w : Key) : Selector := w.extractLsb' 0 3

/-- The instruction with this opcode and these selectors, if the dispatch table has such an entry (R67, R68, R69). -/
def entryFor (op : BitVec 16) (a b : Mode) : Except Reject Instr :=
  match Mnemonic.ofOpcode op with
  | none => .error .unassignedOpcode
  | some m =>
    if (m.instr a b).selectors = (a, b) ∧ (m.instr a b).wellFormed then .ok (m.instr a b) else .error .notInMenu

/-- The dispatch lookup with its reason for a miss: all 32 bits of the key decide (R69, R85). -/
def decode (w : Key) : Except Reject Instr :=
  if w.reserved ≠ 0 then .error .reservedBitsSet
  else if w.sel3 ≠ 0 then .error .thirdSelectorSet
  else
    match Mode.ofTag w.sel1, Mode.ofTag w.sel2 with
    | some a, some b => entryFor w.opcode a b
    | _, _ => .error .noSuchMode

/-- `lookup(key)`: an entry or nothing; a missing entry is no failure of the lookup (R85). -/
def lookup (w : Key) : Option Instr :=
  match decode w with
  | .ok i => some i
  | .error _ => none

/-- A key from its four bytes, the first at the lowest address: little-endian (R44). -/
def Key.ofBytes (b0 b1 b2 b3 : Byte) : Key := b3 ++ b2 ++ b1 ++ b0

/-- Decoding from a list of bytes: the instruction and the bytes after its key. -/
def decodeBytes : List Byte → Except Reject (Instr × List Byte)
  | b0 :: b1 :: b2 :: b3 :: rest =>
    match decode (Key.ofBytes b0 b1 b2 b3) with
    | .ok i => .ok (i, rest)
    | .error r => .error r
  | _ => .error .truncated

/-- The low `8 * n` bits of `w` as `n` bytes, least significant first. -/
def bytesOf : Nat → Nat → List Byte
  | 0, _ => []
  | n + 1, w => BitVec.ofNat 8 w :: bytesOf n (w / 256)

/-- The instruction the decoder reads from a row of the opcode table: `w` holds `nbits` bits, bit 0 the least
significant of the first byte; the bytes are laid out as the hardware stores them (R44) and given to the decoder. -/
def decodeTableWord (nbits w : Nat) : Option Instr :=
  match decodeBytes (bytesOf 24 (w % 2 ^ nbits)) with
  | .ok (i, _) => some i
  | .error _ => none

/-! ## The encoder -/

/-- The opcode number of an instruction's mnemonic (R66, D6). -/
def Instr.opcode (i : Instr) : BitVec 16 := Config.params.opcode i.mnemonic

/-- The key of an instruction: opcode, seven zero bits, `sel3` = 0, `sel2`, `sel1` (R61, R68, R75). -/
def encode (i : Instr) : Key :=
  i.opcode ++ (0 : BitVec 7) ++ (0 : Selector) ++ i.selectors.2.tag ++ i.selectors.1.tag

end Sys2Proof
end

