-- ==== Sys2Proof/Machine/State.lean ====
section
/-! DEFINITION. The state of the machine (10_state.md): the register bank, the run state, the bus binding, the
contents of the bus's memory, and the two fields of the model's own that hold what the core shows to the outside:
the outcome value of the last step and the list of bus transactions. -/

namespace Sys2Proof.Machine

/-- The register bank: eleven 64-bit cells; one bank, none hard-wired (R10, R12). -/
structure Regs where
  r0 : Word
  r1 : Word
  r2 : Word
  r3 : Word
  r4 : Word
  r5 : Word
  r6 : Word
  r7 : Word
  sp : Word
  pc : Word
  flags : Word
  deriving DecidableEq, Repr

/-- The run state, the spec's `state` (R23). -/
inductive RunState where
  | init
  | running
  | halted
  | error
  deriving DecidableEq, Repr

/-- The bus binding: no bus, or the host's bus (R25; log 3). -/
inductive BusBinding where
  | unbound
  | bound
  deriving DecidableEq, Repr

/-- What a handler can raise (R150, R151). The engine turns each into a next state (`State.takeFailure`). -/
inductive Failure where
  /-- raised by `hlt` only (R153) -/
  | halted
  /-- a selector that is no mode, or a write to an immediate operand; with the tag (R154) -/
  | invalidAddressingMode (tag : Selector)
  /-- a register index above 10; with the whole operand value (R155) -/
  | registerIndexOutOfRange (index : Word)
  deriving DecidableEq, Repr

/-- The outcome value of the last step, as the host receives it (R150; log 5). `NoBus` is no value here: an
operation without a bus is refused (`Refusal.noBus`). -/
inductive Report where
  /-- no step since the reset -/
  | noStepYet
  /-- the step returned `ok` -/
  | ok
  /-- the step ended with this failure; a dispatch miss reports `Halted` (R152) -/
  | failed (f : Failure)
  deriving DecidableEq, Repr

/-- One transaction on the bus port: the operation, its address and the value read or written (R41). -/
inductive Transaction where
  | read8 (addr : Word) (value : Byte)
  | read16 (addr : Word) (value : BitVec 16)
  | read32 (addr : Word) (value : BitVec 32)
  | read64 (addr : Word) (value : Word)
  | write8 (addr : Word) (value : Byte)
  | write16 (addr : Word) (value : BitVec 16)
  | write32 (addr : Word) (value : BitVec 32)
  | write64 (addr : Word) (value : Word)
  deriving DecidableEq, Repr

/-- The state of a bus, held as cells (log 1); for RAM64 the contents of its memory: the listed bytes, by address,
in the canonical form of `Memory.wf`; an address that is not listed holds `Config.unlistedByte` (R57; log 1, log 2). -/
abbrev Memory := List Host.Cell

/-- The state of the machine. The first three fields are all the state the core has (R26); `mem` belongs to the
host's bus; `report` and `log` are the model's own and no rule reads them. -/
structure State where
  /-- the register bank (R10) -/
  regs : Regs
  /-- the run state (R23) -/
  runState : RunState
  /-- the bus binding (R25) -/
  bus : BusBinding
  /-- the bus's own state (R42): for RAM64 what the host's memory holds, bound or not (R40, R57; log 1) -/
  mem : Memory
  /-- the outcome value of the last step (R150) -/
  report : Report
  /-- every bus transaction so far, oldest first (R48) -/
  log : List Transaction
  deriving DecidableEq, Repr

/-- Why a step could fault. No rule of the spec stops the machine without a described state: every synchronous
failure leaves one (R151) and is a next state here (log 6), and the bus accepts every transaction (log 1). So the
type has no constructor, and no step of this machine faults; safe. -/
inductive Fault where
  deriving DecidableEq, Repr

/-- Why the machine refuses an operation, changing nothing. -/
inductive Refusal where
  /-- an instruction without a meaning yet: raised by an arm of `exec` only; safe. -/
  | notModelled (mnemonic : String)
  /-- a call in a run state other than the one it requires: raised by `step`, `start` and `run`; the spec refuses
  it too (R196, U1), so it is safe. -/
  | wrongState (current : RunState)
  /-- an operation that needs the bus while none is bound: raised by `step`, `run`, `irq`, `nmi`, the return
  sequence and by every meaning; the spec refuses it too (R156, U2), so it is safe. -/
  | noBus
  deriving DecidableEq, Repr

/-- All registers 0 (R190). -/
def Regs.zero : Regs :=
  { r0 := 0, r1 := 0, r2 := 0, r3 := 0, r4 := 0, r5 := 0, r6 := 0, r7 := 0, sp := 0, pc := 0, flags := 0 }

/-- The machine right after reset, which is its power-on state too (R190, R191): all registers 0, no bus, `init`.
The memory of the host's bus lists nothing (log 2), and nothing has been reported or logged (log 4, log 5). -/
def State.reset : State :=
  { regs := Regs.zero, runState := .init, bus := .unbound, mem := [], report := .noStepYet, log := [] }

end Sys2Proof.Machine
end

