-- ==== Sys2Proof/Machine/Memory.lean ====
section
/-! DEFINITION. The bus's memory, RAM64 of R57: a total map from every 64-bit address to a byte, little-endian,
every address and width accepted (log 1). Kept as a list of cells in one canonical form. -/

namespace Sys2Proof.Machine

/-- The byte at an address; an address not listed reads as `Config.unlistedByte`. -/
def Memory.byte : Memory → Nat → Byte
  | [], _ => Config.unlistedByte
  | (b, v) :: rest, a => if a = b then v else Memory.byte rest a

/-- The memory with the byte at an address replaced, in canonical form: addresses rise, and a cell that would hold
`Config.unlistedByte` is not listed. -/
def Memory.put : Memory → Nat → Byte → Memory
  | [], a, v => if v = Config.unlistedByte then [] else [(a, v)]
  | (b, w) :: rest, a, v =>
    if a < b then
      if v = Config.unlistedByte then (b, w) :: rest else (a, v) :: (b, w) :: rest
    else if a = b then
      if v = Config.unlistedByte then rest else (a, v) :: rest
    else (b, w) :: Memory.put rest a v

/-- The canonical form from the address `lo` on: addresses strictly rise, stay below 2^64 (R40), and no listed byte
is one an unlisted address reads as. -/
def Memory.wfFrom (lo : Nat) : Memory → Bool
  | [] => true
  | (a, v) :: rest => decide (lo ≤ a) && decide (a < 2 ^ 64) && decide (v ≠ Config.unlistedByte) && Memory.wfFrom (a + 1) rest

/-- The canonical form of the memory. -/
def Memory.wf (m : Memory) : Bool := Memory.wfFrom 0 m

/-- `read8` on the memory (R57). -/
def Memory.read8 (m : Memory) (a : Word) : Byte := m.byte a.toNat

/-- `read16`: the byte at `a` is the low byte; addresses are modulo 2^64 (R44, R57). -/
def Memory.read16 (m : Memory) (a : Word) : BitVec 16 := m.read8 (a + 1) ++ m.read8 a

/-- `read32` (R44, R57). -/
def Memory.read32 (m : Memory) (a : Word) : BitVec 32 := m.read16 (a + 2) ++ m.read16 a

/-- `read64` (R44, R57). -/
def Memory.read64 (m : Memory) (a : Word) : Word := m.read32 (a + 4) ++ m.read32 a

/-- `write8` on the memory (R57). -/
def Memory.write8 (m : Memory) (a : Word) (v : Byte) : Memory := m.put a.toNat v

/-- `write16`: byte `i` of the value goes to `a + i` (R57). -/
def Memory.write16 (m : Memory) (a : Word) (v : BitVec 16) : Memory :=
  (m.write8 a (v.extractLsb' 0 8)).write8 (a + 1) (v.extractLsb' 8 8)

/-- `write32` (R57). -/
def Memory.write32 (m : Memory) (a : Word) (v : BitVec 32) : Memory :=
  (m.write16 a (v.extractLsb' 0 16)).write16 (a + 2) (v.extractLsb' 16 16)

/-- `write64` (R57). -/
def Memory.write64 (m : Memory) (a : Word) (v : Word) : Memory :=
  (m.write32 a (v.extractLsb' 0 32)).write32 (a + 4) (v.extractLsb' 32 32)

/-- A memory from an image: the bytes the host places, one after the other (U12). -/
def Memory.ofImage : List (Word × Byte) → Memory
  | [] => []
  | (a, v) :: rest => (Memory.ofImage rest).write8 a v

/-- Whether the address `b` is one of the `n` bytes at `a`, `a + 1`, … modulo 2^64 (R57). -/
def inSpan (a : Word) (n : Nat) (b : Word) : Bool := decide ((b - a).toNat < n)

end Sys2Proof.Machine
end

