-- ==== Sys2Proof/Machine/Bus.lean ====
section
/-! DEFINITION. The bus port of R41 as a parameter (R42): the eight operations over a state of the bus's own. Every rule of
the core is written over any bus; `Bus.ram64` is the spec's own reference memory (R57), which the host's `step` uses. -/

namespace Sys2Proof.Machine

/-- The eight operations of R41 over a bus's own state `σ`. Each takes that state and answers the next one, so a read may
have a side effect, and a write need not be what a later read returns (R42, R48, U10). They are total: the core has no
input by which a bus could refuse a transaction (R42, U9). -/
structure BusPort (σ : Type) where
  read8 : Word → σ → Byte × σ
  read16 : Word → σ → BitVec 16 × σ
  read32 : Word → σ → BitVec 32 × σ
  read64 : Word → σ → Word × σ
  write8 : Word → Byte → σ → σ
  write16 : Word → BitVec 16 → σ → σ
  write32 : Word → BitVec 32 → σ → σ
  write64 : Word → Word → σ → σ

/-- A bus the core can be bound to: its state is the field `State.mem`, plain data held as cells. What the cells mean is
the bus's own affair; the core never looks at them (log 1). -/
abbrev Bus := BusPort Memory

/-- A bus with a state of any type, that state held in `State.mem` by a code for it (log 1). -/
def BusPort.coded {σ : Type} (P : BusPort σ) (code : σ → Memory) (value : Memory → σ) : Bus where
  read8 a m := ((P.read8 a (value m)).1, code (P.read8 a (value m)).2)
  read16 a m := ((P.read16 a (value m)).1, code (P.read16 a (value m)).2)
  read32 a m := ((P.read32 a (value m)).1, code (P.read32 a (value m)).2)
  read64 a m := ((P.read64 a (value m)).1, code (P.read64 a (value m)).2)
  write8 a v m := code (P.write8 a v (value m))
  write16 a v m := code (P.write16 a v (value m))
  write32 a v m := code (P.write32 a v (value m))
  write64 a v m := code (P.write64 a v (value m))

/-- RAM64: the cells are the bytes by address, a read changes nothing (R57; log 1). -/
def Bus.ram64 : Bus where
  read8 a m := (m.read8 a, m)
  read16 a m := (m.read16 a, m)
  read32 a m := (m.read32 a, m)
  read64 a m := (m.read64 a, m)
  write8 a v m := m.write8 a v
  write16 a v m := m.write16 a v
  write32 a v m := m.write32 a v
  write64 a v m := m.write64 a v

/-- What R44 asks of a bus at an address that holds part of a program: a narrower read gives the low-order part of the
64-bit read at the same address. -/
def Bus.agreesAt (B : Bus) (m : Memory) (a : Word) : Prop :=
  (B.read16 a m).1 = (B.read64 a m).1.extractLsb' 0 16 ∧ (B.read32 a m).1 = (B.read64 a m).1.extractLsb' 0 32

end Sys2Proof.Machine
end

