-- ==== Sys2Proof/Machine/Registers.lean ====
section
/-! DEFINITION. The register bank: indices, the accessors every read and write of a register goes through, and the
views of a register value (R10 to R17). -/

namespace Sys2Proof.Machine

/-- The index of each register (R11, D3). -/
def Reg.index (r : Reg) : Nat := Config.params.registerIndex r

/-- All registers in the order of their indices (R11). -/
def Reg.all : List Reg := [.r0, .r1, .r2, .r3, .r4, .r5, .r6, .r7, .sp, .pc, .flags]

/-- The register an operand value names: the whole 64-bit value is the index, and a value above 10 names none
(R14, R63, R93). -/
def Reg.ofIndex (v : Word) : Option Reg := Reg.all.find? fun r => r.index = v.toNat

/-- `x[i]` (R10). -/
def Regs.get (x : Regs) : Reg → Word
  | .r0 => x.r0
  | .r1 => x.r1
  | .r2 => x.r2
  | .r3 => x.r3
  | .r4 => x.r4
  | .r5 => x.r5
  | .r6 => x.r6
  | .r7 => x.r7
  | .sp => x.sp
  | .pc => x.pc
  | .flags => x.flags

/-- `x[i] <- v`: all 64 bits are stored, in every slot (R12). -/
def Regs.set (x : Regs) (r : Reg) (v : Word) : Regs :=
  match r with
  | .r0 => { x with r0 := v }
  | .r1 => { x with r1 := v }
  | .r2 => { x with r2 := v }
  | .r3 => { x with r3 := v }
  | .r4 => { x with r4 := v }
  | .r5 => { x with r5 := v }
  | .r6 => { x with r6 := v }
  | .r7 => { x with r7 := v }
  | .sp => { x with sp := v }
  | .pc => { x with pc := v }
  | .flags => { x with flags := v }

/-- The value of a register in a state. -/
def State.get (s : State) (r : Reg) : Word := s.regs.get r

/-- A state with one register written. -/
def State.set (s : State) (r : Reg) (v : Word) : State := { s with regs := s.regs.set r v }

/-- `reg_get(i)` and `reg_set(i, v)` check the index first (R14, R90, R91, R93). -/
def regIndex (operand : Word) : Except Failure Reg :=
  match Reg.ofIndex operand with
  | some r => .ok r
  | none => .error (.registerIndexOutOfRange operand)

/-! ## The views of a register value (R13), used by the host's accessors only -/

/-- Element `i` of the view as `w`-bit lanes: bits `w*i + w - 1 : w*i` (R13, D26). -/
def laneGet (w i : Nat) (v : Word) : BitVec w := v.extractLsb' (w * i) w

/-- The value with element `i` of the `w`-bit view replaced; the other bits alias unchanged (R13). -/
def laneSet (w i : Nat) (v : Word) (x : BitVec w) : Word :=
  (v &&& ~~~((BitVec.allOnes w).setWidth 64 <<< (w * i))) ||| (x.setWidth 64 <<< (w * i))

/-- The fields of the double-precision view: the same 64 bits as IEEE 754 binary64 (R13; log 19). -/
structure Binary64 where
  sign : Bool
  exponent : BitVec 11
  fraction : BitVec 52
  deriving DecidableEq, Repr

/-- The double-precision view of a register value (R13; log 19). -/
def binary64Get (v : Word) : Binary64 :=
  { sign := v.getLsbD 63, exponent := v.extractLsb' 52 11, fraction := v.extractLsb' 0 52 }

/-- The register value with this double-precision view (R13; log 19). -/
def binary64Put (x : Binary64) : Word := BitVec.ofBool x.sign ++ x.exponent ++ x.fraction

end Sys2Proof.Machine
end

