-- ==== Sys2Proof/Machine/Flags.lean ====
section
/-! DEFINITION. The flag primitive (R18 to R22) and the flag effects the instruction rules name (R121, R144). -/

namespace Sys2Proof.Machine

/-- The bit position of each flag (R18, D4). -/
def Flag.position (f : Flag) : Nat := Config.params.flagPosition f

/-- `flag(F)` "tests a single bit" (R20). -/
def State.getFlag (s : State) (f : Flag) : Bool := (s.get .flags).getLsbD f.position

/-- The flags word with one bit set or cleared: "No side effects beyond the addressed bit." (R21). -/
def setFlagBit (w : Word) (f : Flag) (b : Bool) : Word :=
  if b then w ||| ((1 : Word) <<< f.position) else w &&& ~~~((1 : Word) <<< f.position)

/-- `flag(F) <- b` (R21). -/
def State.setFlag (s : State) (f : Flag) (b : Bool) : State := s.set .flags (setFlagBit (s.get .flags) f b)

/-- `flag(Z) <- z; flag(N) <- n`, the flag effect of `cmp` and `test` (R144). -/
def State.setCompareFlags (s : State) (z n : Bool) : State := (s.setFlag .zero z).setFlag .negative n

/-- The `Z` condition of `cmp` (R130). -/
def cmpZero (a b : Word) : Bool := a == b

/-- The `Z` condition of `test` (R131). -/
def testZero (a b : Word) : Bool := a &&& b == 0

/-- The `N` condition of both: operand 1 unsigned below operand 2 (R144, D11, D12). -/
def compareBelow (a b : Word) : Bool := a.ult b

end Sys2Proof.Machine
end

