-- ==== Sys2Proof/Machine/Ops.lean ====
section
/-! DEFINITION. The named operations of the engine, over any bus `B`: the bus port with its log (R41, R48), the result of a handler and
its sequencing, the stack primitives (R96, R97), taking a failure, the end of a step (R82), taking an interrupt (R165,
R166) and the return sequence (R171). -/

namespace Sys2Proof.Machine

/-! ## The bus port (R41): each operation is one transaction, logged in the order it is issued (R48, R51) -/

/-- The state with one more transaction in the log (log 4). -/
def State.logged (s : State) (t : Transaction) : State := { s with log := s.log ++ [t] }

/-- The state with these transactions added to the log, in this order (log 4). -/
def State.note (s : State) (ts : List Transaction) : State := { s with log := s.log ++ ts }

/-- `MemRead(a, 1)` (R41). -/
def busRead8 (B : Bus) (a : Word) (s : State) : Byte × State :=
  match B.read8 a s.mem with
  | (v, m) => (v, { s with mem := m }.logged (.read8 a v))

/-- `MemRead(a, 2)` (R41). -/
def busRead16 (B : Bus) (a : Word) (s : State) : BitVec 16 × State :=
  match B.read16 a s.mem with
  | (v, m) => (v, { s with mem := m }.logged (.read16 a v))

/-- `MemRead(a, 4)` (R41). -/
def busRead32 (B : Bus) (a : Word) (s : State) : BitVec 32 × State :=
  match B.read32 a s.mem with
  | (v, m) => (v, { s with mem := m }.logged (.read32 a v))

/-- `MemRead(a, 8)` (R41). -/
def busRead64 (B : Bus) (a : Word) (s : State) : Word × State :=
  match B.read64 a s.mem with
  | (v, m) => (v, { s with mem := m }.logged (.read64 a v))

/-- `MemWrite(a, 1, v)` (R41). -/
def busWrite8 (B : Bus) (a : Word) (v : Byte) (s : State) : State :=
  { s.logged (.write8 a v) with mem := B.write8 a v s.mem }

/-- `MemWrite(a, 2, v)` (R41). -/
def busWrite16 (B : Bus) (a : Word) (v : BitVec 16) (s : State) : State :=
  { s.logged (.write16 a v) with mem := B.write16 a v s.mem }

/-- `MemWrite(a, 4, v)` (R41). -/
def busWrite32 (B : Bus) (a : Word) (v : BitVec 32) (s : State) : State :=
  { s.logged (.write32 a v) with mem := B.write32 a v s.mem }

/-- `MemWrite(a, 8, v)` (R41). -/
def busWrite64 (B : Bus) (a : Word) (v : Word) (s : State) : State :=
  { s.logged (.write64 a v) with mem := B.write64 a v s.mem }

/-! ## Handlers -/

/-- What a handler, or a part of one, ends with: a value, or a failure; in both cases with the state it leaves,
since what an earlier line wrote stays (R157). -/
inductive Result (α : Type) where
  | ok (value : α) (s : State)
  | raised (f : Failure) (s : State)
  deriving Repr

/-- Run one part of a handler after another; a failure ends the handler at once (R157, R158). -/
def Result.andThen {α β : Type} (r : Result α) (k : α → State → Result β) : Result β :=
  match r with
  | .ok v s => k v s
  | .raised f s => .raised f s

/-! ## The end of a step (R82) -/

/-- The engine's advance: `pc <- pc + 2 * SLOT`, from the value of `pc` the handler left (R16, R82). -/
def State.advance (s : State) : State := s.set .pc (s.get .pc + 2 * Config.params.slot)

/-- Taking a failure, the one operation for all of them (R82, R151): the run state becomes `halted` for `Halted` and
`error` for the others, the outcome names the failure, `pc` is not advanced, and nothing else changes. -/
def State.takeFailure (f : Failure) (s : State) : State :=
  { s with
    runState := (match f with
      | .halted => .halted
      | .invalidAddressingMode _ => .error
      | .registerIndexOutOfRange _ => .error)
    report := .failed f }

/-- Taking a dispatch miss: `ILL` is set, and the step ends as a halt (R82, R152). -/
def State.takeMiss (s : State) : State := (s.setFlag .illegal true).takeFailure .halted

/-- The end of a step, from what its handler ended with (R82). -/
def finish : Result Unit → Host.Outcome State Fault Refusal
  | .ok _ s => .next { s.advance with report := .ok }
  | .raised f s => .next (s.takeFailure f)

/-- Run an instruction's handler in the engine (R82): a bus is required (R156), then the handler, then the end of the
step. -/
def execute (handler : State → Result Unit) (s : State) : Host.Outcome State Fault Refusal :=
  match s.bus with
  | .unbound => .refused .noBus
  | .bound => finish (handler s)

/-! ## The stack primitives -/

/-- `push(v)`: `sp <- sp - 8`, then one `write64` at the new `sp` (R96, R98). Its users check the bus (R156). -/
def push (B : Bus) (v : Word) (s : State) : State :=
  busWrite64 B (s.get .sp - 8) v (s.set .sp (s.get .sp - 8))

/-- `pop()`: one `read64` at `sp`, then `sp <- sp + 8` (R97, R98). Its users check the bus (R156). -/
def pop (B : Bus) (s : State) : Word × State :=
  match busRead64 B (s.get .sp) s with
  | (v, s') => (v, s'.set .sp (s'.get .sp + 8))

/-! ## Taking an interrupt and returning from it -/

/-- The effect of a flag change on entry: `irq` clears `B`, `nmi` keeps it (R165, R166). -/
def State.entryFlags (s : State) (clearBreak : Bool) : State :=
  if clearBreak then (s.setFlag .irqEnable true).setFlag .brk false else s.setFlag .irqEnable true

/-- Interrupt entry, the one operation for `irq` and `nmi` (R165, R166, R167): `pc` is pushed, then `flags` as it was
before the entry; `I` is set, and `B` cleared if asked; then `pc` is read from the table entry at `base + vector`. -/
def takeInterrupt (B : Bus) (base vector : Word) (clearBreak : Bool) (s : State) : State :=
  match busRead64 B (base + vector) ((push B (s.get .flags) (push B (s.get .pc) s)).entryFlags clearBreak) with
  | (target, s') => s'.set .pc target

/-- The return sequence the document names, `flags <- pop()` then `pc <- pop()` (R171). No instruction performs it; it
is a call of the host (log 26). -/
def returnSequence (B : Bus) (s : State) : State :=
  match pop B s with
  | (f, s1) =>
    match pop B (s1.set .flags f) with
    | (p, s2) => s2.set .pc p

end Sys2Proof.Machine
end

