-- ==== Sys2Proof/Machine/Operands.lean ====
section
/-! DEFINITION. Operand access: the slots, the mode field, the addressing-mode resolver and the operand helpers
(R60, R64, R87 to R95). -/

namespace Sys2Proof.Machine

/-- The three operands of the helpers; no instruction has operand 3 (R76). -/
inductive Operand where
  | one
  | two
  | three
  deriving DecidableEq, Repr

/-- The number `k` of an operand. -/
def Operand.number : Operand → Nat
  | .one => 1
  | .two => 2
  | .three => 3

/-- `slot(k) = pc + k * SLOT`, modulo 2^64, from register 9 as it is at the moment of the access (R87). -/
def State.slot (s : State) (k : Nat) : Word := s.get .pc + BitVec.ofNat 64 k * Config.params.slot

/-- The selector of operand `k` in a mode field: `(mf >> (3 * (k - 1))) & 7`; the other bits are ignored (R75, R88). -/
def selectorOf (mf : ModeField) (k : Operand) : Selector := mf.extractLsb' (3 * (k.number - 1)) 3

/-- What a resolved operand names. -/
inductive Location where
  /-- an immediate operand: the literal -/
  | literal (v : Word)
  /-- a register of the bank -/
  | register (r : Reg)
  /-- the 8 bytes of the bus at an effective address -/
  | memory (a : Word)
  deriving DecidableEq, Repr

/-- The addressing-mode resolver up to the access itself (R90, R91, R92): the tag check, then the index check, then
the effective address. `r6` and the named register are read at this moment. -/
def locate (tag : Selector) (operand : Word) (s : State) : Except Failure Location :=
  match Mode.ofTag tag with
  | none => .error (.invalidAddressingMode tag)
  | some .imm => .ok (.literal operand)
  | some .rd =>
    match regIndex operand with
    | .ok r => .ok (.register r)
    | .error f => .error f
  | some .dir => .ok (.memory operand)
  | some .ri =>
    match regIndex operand with
    | .ok r => .ok (.memory (s.get r))
    | .error f => .error f
  | some .idx => .ok (.memory (s.get .r6 + operand))
  | some .bix =>
    match regIndex operand with
    | .ok r => .ok (.memory (s.get .r6 + s.get r))
    | .error f => .error f

/-- Reading what an operand names: only a memory operand issues a transaction (R90, R95). -/
def readLocation (B : Bus) (l : Location) (s : State) : Result Word :=
  match l with
  | .literal v => .ok v s
  | .register r => .ok (s.get r) s
  | .memory a =>
    match busRead64 B a s with
    | (v, s') => .ok v s'

/-- Writing what an operand names: an immediate operand is not writable (R91). -/
def writeLocation (B : Bus) (l : Location) (data : Word) (s : State) : Result Unit :=
  match l with
  | .literal _ => .raised (.invalidAddressingMode Mode.imm.tag) s
  | .register r => .ok () (s.set r data)
  | .memory a => .ok () (busWrite64 B a data s)

/-- `resolve_read(mode, operand)` (R90). -/
def resolveRead (B : Bus) (tag : Selector) (operand : Word) (s : State) : Result Word :=
  match locate tag operand s with
  | .ok l => readLocation B l s
  | .error f => .raised f s

/-- `resolve_write(mode, operand, data)` (R91). -/
def resolveWrite (B : Bus) (tag : Selector) (operand data : Word) (s : State) : Result Unit :=
  match locate tag operand s with
  | .ok l => writeLocation B l data s
  | .error f => .raised f s

/-- The two reads every operand access begins with, in this order: the mode field at `slot(2)`, then the operand value
at `slot(k)` (R87, R88, R89, D8). Nothing is kept between accesses. -/
def fetchOperand (B : Bus) (k : Operand) (s : State) : (Selector × Word) × State :=
  match busRead16 B (s.slot 2) s with
  | (mf, s1) =>
    match busRead64 B (s1.slot k.number) s1 with
    | (v, s2) => ((selectorOf mf k, v), s2)

/-- `op_read(k)` (R88). -/
def opRead (B : Bus) (k : Operand) (s : State) : Result Word :=
  match fetchOperand B k s with
  | ((tag, v), s') => resolveRead B tag v s'

/-- `op_write(k, data)` (R89). -/
def opWrite (B : Bus) (k : Operand) (data : Word) (s : State) : Result Unit :=
  match fetchOperand B k s with
  | ((tag, v), s') => resolveWrite B tag v data s'

/-! ## The operands of the instruction at `pc` on RAM64, as functions of the state -/

/-- The selector of operand `k` of the instruction at `pc` (R87). -/
def State.selector (s : State) (k : Operand) : Selector := selectorOf (s.mem.read16 (s.slot 2)) k

/-- The operand value of operand `k` of the instruction at `pc` (R87). -/
def State.operandValue (s : State) (k : Operand) : Word := s.mem.read64 (s.slot k.number)

/-- What operand `k` of the instruction at `pc` names, or the failure its resolution raises. -/
def State.location (s : State) (k : Operand) : Except Failure Location := locate (s.selector k) (s.operandValue k) s

/-- The 64-bit value at a location. -/
def State.valueAt (s : State) : Location → Word
  | .literal v => v
  | .register r => s.get r
  | .memory a => s.mem.read64 a

/-- Whether a location can be written (R94). -/
def Location.writable : Location → Bool
  | .literal _ => false
  | .register _ => true
  | .memory _ => true

/-- The state with the value at a location replaced; no transaction is logged. -/
def State.store (s : State) (l : Location) (v : Word) : State :=
  match l with
  | .literal _ => s
  | .register r => s.set r v
  | .memory a => { s with mem := s.mem.write64 a v }

/-- The transactions of the two reads an access to operand `k` begins with (R87). -/
def State.slotTraffic (s : State) (k : Operand) : List Transaction :=
  [.read16 (s.slot 2) (s.mem.read16 (s.slot 2)), .read64 (s.slot k.number) (s.operandValue k)]

/-- The transactions of reading operand `k` when it names `l` (R88, R90). -/
def State.readTraffic (s : State) (k : Operand) (l : Location) : List Transaction :=
  s.slotTraffic k ++
    match l with
    | .memory a => [.read64 a (s.mem.read64 a)]
    | _ => []

/-- The transactions of writing `v` to operand `k` when it names `l` (R89, R91). -/
def State.writeTraffic (s : State) (k : Operand) (l : Location) (v : Word) : List Transaction :=
  s.slotTraffic k ++
    match l with
    | .memory a => [.write64 a v]
    | _ => []

end Sys2Proof.Machine
end

