-- ==== Sys2Proof/Machine/Handlers.lean ====
section
/-! DEFINITION. The shapes of handler the instruction rules share: each is the pseudocode of a family, with the
function of the instruction as an argument. The transactions come in the order written (R48, D8). -/

namespace Sys2Proof.Machine

/-- The two-operand update of R141 and R142: read operand 1, read operand 2, write operand 1. The carry is read after
the operand reads and before the write (R114). -/
def updateHandler (B : Bus) (f : Word → Word → Bool → Word) (s : State) : Result Unit :=
  (opRead B .one s).andThen fun a s1 =>
  (opRead B .two s1).andThen fun b s2 =>
  opWrite B .one (f a b (s2.getFlag .carry)) s2

/-- The one-operand update of R142: read operand 1, write operand 1. -/
def unaryHandler (B : Bus) (f : Word → Word) (s : State) : Result Unit :=
  (opRead B .one s).andThen fun a s1 =>
  opWrite B .one (f a) s1

/-- The frame of the shifts and rotates (R121): `C` is written after the write-back. -/
def shiftHandler (B : Bus) (f : Word → Word → Bool → Word × Bool) (s : State) : Result Unit :=
  (opRead B .one s).andThen fun a s1 =>
  (opRead B .two s1).andThen fun n s2 =>
  (opWrite B .one (f a n (s2.getFlag .carry)).1 s2).andThen fun _ s3 =>
  .ok () (s3.setFlag .carry (f a n (s2.getFlag .carry)).2)

/-- The frame of `cmp` and `test` (R144): two reads, then `Z` and `N`; nothing is written back. -/
def compareHandler (B : Bus) (zero below : Word → Word → Bool) (s : State) : Result Unit :=
  (opRead B .one s).andThen fun a s1 =>
  (opRead B .two s1).andThen fun b s2 =>
  .ok () (s2.setCompareFlags (zero a b) (below a b))

/-- The frame of `xchg` and `xadd` (R145): both operands read, then operand 1 written with `f a b`, then operand 2 with
the old operand 1. The second write takes its slots from the `pc` the first one left (R204). -/
def exchangeHandler (B : Bus) (f : Word → Word → Word) (s : State) : Result Unit :=
  (opRead B .one s).andThen fun a s1 =>
  (opRead B .two s1).andThen fun b s2 =>
  (opWrite B .one (f a b) s2).andThen fun _ s3 =>
  opWrite B .two a s3

/-- The frame of `cmpxchg` and `cmpxchg8b` (R134): operand 1 is replaced by operand 2 if it equals `r0`; otherwise
nothing is written and no write is tried. -/
def compareExchangeHandler (B : Bus) (s : State) : Result Unit :=
  (opRead B .one s).andThen fun a s1 =>
  (opRead B .two s1).andThen fun b s2 =>
  if a = s2.get .r0 then opWrite B .one b s2 else .ok () s2

/-- The unit sizes of the block copies (R140). -/
inductive UnitSize where
  | byte
  | word
  | dword
  | qword
  deriving DecidableEq, Repr

/-- The unit size in bytes (R140). -/
def UnitSize.bytes : UnitSize → Nat
  | .byte => 1
  | .word => 2
  | .dword => 4
  | .qword => 8

/-- One read of the unit at the address in `r7`, one write of it at the address in `r6`, each one transaction of exactly
that width (R140). -/
def copyUnit (B : Bus) (u : UnitSize) (s : State) : State :=
  match u with
  | .byte => match busRead8 B (s.get .r7) s with | (v, s1) => busWrite8 B (s1.get .r6) v s1
  | .word => match busRead16 B (s.get .r7) s with | (v, s1) => busWrite16 B (s1.get .r6) v s1
  | .dword => match busRead32 B (s.get .r7) s with | (v, s1) => busWrite32 B (s1.get .r6) v s1
  | .qword => match busRead64 B (s.get .r7) s with | (v, s1) => busWrite64 B (s1.get .r6) v s1

/-- The state with the unit copied on RAM64, and no transaction logged: what `copyUnit` does apart from the log (R140). -/
def State.copied (s : State) (u : UnitSize) : State :=
  { s with
    mem := (match u with
      | .byte => s.mem.write8 (s.get .r6) (s.mem.read8 (s.get .r7))
      | .word => s.mem.write16 (s.get .r6) (s.mem.read16 (s.get .r7))
      | .dword => s.mem.write32 (s.get .r6) (s.mem.read32 (s.get .r7))
      | .qword => s.mem.write64 (s.get .r6) (s.mem.read64 (s.get .r7))) }

/-- The two transactions of the copy (R140). -/
def State.copyTraffic (s : State) (u : UnitSize) : List Transaction :=
  match u with
  | .byte => [.read8 (s.get .r7) (s.mem.read8 (s.get .r7)), .write8 (s.get .r6) (s.mem.read8 (s.get .r7))]
  | .word => [.read16 (s.get .r7) (s.mem.read16 (s.get .r7)), .write16 (s.get .r6) (s.mem.read16 (s.get .r7))]
  | .dword => [.read32 (s.get .r7) (s.mem.read32 (s.get .r7)), .write32 (s.get .r6) (s.mem.read32 (s.get .r7))]
  | .qword => [.read64 (s.get .r7) (s.mem.read64 (s.get .r7)), .write64 (s.get .r6) (s.mem.read64 (s.get .r7))]

/-- The procedure `cmps(n)` of R140: the copy, then operand 1 is read and `r6` advanced, then operand 2 is read and `r7`
advanced. -/
def blockHandler (B : Bus) (u : UnitSize) (s : State) : Result Unit :=
  (opRead B .one (copyUnit B u s)).andThen fun a s1 =>
  (opRead B .two (s1.set .r6 (s1.get .r6 + a))).andThen fun b s2 =>
  .ok () (s2.set .r7 (s2.get .r7 + b))

end Sys2Proof.Machine
end

