-- ==== Sys2Proof/Machine/Arithmetic.lean ====
section
/-! DEFINITION. The arithmetic instructions (42_arithmetic.md). None writes a flag (R141). -/

namespace Sys2Proof.Machine

/-- `add` (R112). -/
def addOn (B : Bus) : State → Result Unit := updateHandler B Alu.add

/-- `add` on RAM64, the bus of the host's `step` (log 1). -/
def execAdd (s : State) : Host.Outcome State Fault Refusal := execute (addOn Bus.ram64) s

/-- `sub` (R113). -/
def subOn (B : Bus) : State → Result Unit := updateHandler B Alu.sub

/-- `sub` on RAM64, the bus of the host's `step` (log 1). -/
def execSub (s : State) : Host.Outcome State Fault Refusal := execute (subOn Bus.ram64) s

/-- `adc` (R114). -/
def adcOn (B : Bus) : State → Result Unit := updateHandler B Alu.adc

/-- `adc` on RAM64, the bus of the host's `step` (log 1). -/
def execAdc (s : State) : Host.Outcome State Fault Refusal := execute (adcOn Bus.ram64) s

/-- `sbb` (R115). -/
def sbbOn (B : Bus) : State → Result Unit := updateHandler B Alu.sbb

/-- `sbb` on RAM64, the bus of the host's `step` (log 1). -/
def execSbb (s : State) : Host.Outcome State Fault Refusal := execute (sbbOn Bus.ram64) s

end Sys2Proof.Machine
end

