-- ==== Sys2Proof/Machine/Bitwise.lean ====
section
/-! DEFINITION. The bitwise instructions (43_bitwise.md). None writes a flag (R142). -/

namespace Sys2Proof.Machine

/-- `and` (R116). -/
def andOn (B : Bus) : State → Result Unit := updateHandler B Alu.band

/-- `and` on RAM64, the bus of the host's `step` (log 1). -/
def execAnd (s : State) : Host.Outcome State Fault Refusal := execute (andOn Bus.ram64) s

/-- `or` (R117). -/
def orOn (B : Bus) : State → Result Unit := updateHandler B Alu.bor

/-- `or` on RAM64, the bus of the host's `step` (log 1). -/
def execOr (s : State) : Host.Outcome State Fault Refusal := execute (orOn Bus.ram64) s

/-- `xor` (R118). -/
def xorOn (B : Bus) : State → Result Unit := updateHandler B Alu.bxor

/-- `xor` on RAM64, the bus of the host's `step` (log 1). -/
def execXor (s : State) : Host.Outcome State Fault Refusal := execute (xorOn Bus.ram64) s

/-- `not` (R119). -/
def notOn (B : Bus) : State → Result Unit := unaryHandler B Alu.bnot

/-- `not` on RAM64, the bus of the host's `step` (log 1). -/
def execNot (s : State) : Host.Outcome State Fault Refusal := execute (notOn Bus.ram64) s

/-- `neg` (R120). -/
def negOn (B : Bus) : State → Result Unit := unaryHandler B Alu.neg

/-- `neg` on RAM64, the bus of the host's `step` (log 1). -/
def execNeg (s : State) : Host.Outcome State Fault Refusal := execute (negOn Bus.ram64) s

end Sys2Proof.Machine
end

