-- ==== Sys2Proof/Machine/Block.lean ====
section
/-! DEFINITION. The block instructions (47_block_copy.md): directed copies; none compares, none reads or writes a flag (R140). -/

namespace Sys2Proof.Machine

/-- `cmpsb` (R136). -/
def cmpsbOn (B : Bus) : State → Result Unit := blockHandler B .byte

/-- `cmpsb` on RAM64, the bus of the host's `step` (log 1). -/
def execCmpsb (s : State) : Host.Outcome State Fault Refusal := execute (cmpsbOn Bus.ram64) s

/-- `cmpsw` (R137). -/
def cmpswOn (B : Bus) : State → Result Unit := blockHandler B .word

/-- `cmpsw` on RAM64, the bus of the host's `step` (log 1). -/
def execCmpsw (s : State) : Host.Outcome State Fault Refusal := execute (cmpswOn Bus.ram64) s

/-- `cmpsd` (R138). -/
def cmpsdOn (B : Bus) : State → Result Unit := blockHandler B .dword

/-- `cmpsd` on RAM64, the bus of the host's `step` (log 1). -/
def execCmpsd (s : State) : Host.Outcome State Fault Refusal := execute (cmpsdOn Bus.ram64) s

/-- `cmpsq` (R139). -/
def cmpsqOn (B : Bus) : State → Result Unit := blockHandler B .qword

/-- `cmpsq` on RAM64, the bus of the host's `step` (log 1). -/
def execCmpsq (s : State) : Host.Outcome State Fault Refusal := execute (cmpsqOn Bus.ram64) s

end Sys2Proof.Machine
end

