-- ==== Sys2Proof/Machine/Compare.lean ====
section
/-! DEFINITION. The compare instructions (45_compare.md). -/

namespace Sys2Proof.Machine

/-- `cmp` (R130). -/
def cmpOn (B : Bus) : State → Result Unit := compareHandler B cmpZero compareBelow

/-- `cmp` on RAM64, the bus of the host's `step` (log 1). -/
def execCmp (s : State) : Host.Outcome State Fault Refusal := execute (cmpOn Bus.ram64) s

/-- `test` (R131). -/
def testOn (B : Bus) : State → Result Unit := compareHandler B testZero compareBelow

/-- `test` on RAM64, the bus of the host's `step` (log 1). -/
def execTest (s : State) : Host.Outcome State Fault Refusal := execute (testOn Bus.ram64) s

end Sys2Proof.Machine
end

