-- ==== Sys2Proof/Machine/Control.lean ====
section
/-! DEFINITION. The control instructions (41_control.md). -/

namespace Sys2Proof.Machine

/-- `nop`: the handler does nothing and issues no transaction (R110). -/
def nopOn (_ : Bus) (s : State) : Result Unit := .ok () s

/-- `nop` on RAM64, the bus of the host's `step` (log 1). -/
def execNop (s : State) : Host.Outcome State Fault Refusal := execute (nopOn Bus.ram64) s

/-- `hlt`: the handler raises `Halted`, always (R111, R153). -/
def hltOn (_ : Bus) (s : State) : Result Unit := .raised .halted s

/-- `hlt` on RAM64, the bus of the host's `step` (log 1). -/
def execHlt (s : State) : Host.Outcome State Fault Refusal := execute (hltOn Bus.ram64) s

end Sys2Proof.Machine
end

