-- ==== Sys2Proof/Machine/Exchange.lean ====
section
/-! DEFINITION. The exchange instructions (46_exchange.md). None reads or writes a flag (R145). -/

namespace Sys2Proof.Machine

/-- `xchg`: operand 1 receives the value of operand 2, operand 2 the old value of operand 1 (R132). -/
def xchgOn (B : Bus) : State → Result Unit := exchangeHandler B fun _ b => b

/-- `xchg` on RAM64, the bus of the host's `step` (log 1). -/
def execXchg (s : State) : Host.Outcome State Fault Refusal := execute (xchgOn Bus.ram64) s

/-- `xadd`: operand 1 receives the sum, operand 2 the old value of operand 1 (R133). -/
def xaddOn (B : Bus) : State → Result Unit := exchangeHandler B fun a b => a + b

/-- `xadd` on RAM64, the bus of the host's `step` (log 1). -/
def execXadd (s : State) : Host.Outcome State Fault Refusal := execute (xaddOn Bus.ram64) s

/-- `cmpxchg` (R134). -/
def cmpxchgOn (B : Bus) : State → Result Unit := compareExchangeHandler B

/-- `cmpxchg` on RAM64, the bus of the host's `step` (log 1). -/
def execCmpxchg (s : State) : Host.Outcome State Fault Refusal := execute (cmpxchgOn Bus.ram64) s

/-- `cmpxchg8b`: the operation of `cmpxchg` under its own opcode (R135). -/
def cmpxchg8bOn (B : Bus) : State → Result Unit := compareExchangeHandler B

/-- `cmpxchg8b` on RAM64, the bus of the host's `step` (log 1). -/
def execCmpxchg8b (s : State) : Host.Outcome State Fault Refusal := execute (cmpxchg8bOn Bus.ram64) s

end Sys2Proof.Machine
end

