-- ==== Sys2Proof/Machine/Shift.lean ====
section
/-! DEFINITION. The shift and rotate instructions (44_shift_rotate.md). -/

namespace Sys2Proof.Machine

/-- `shl` (R122). -/
def shlOn (B : Bus) : State → Result Unit := shiftHandler B Alu.shl

/-- `shl` on RAM64, the bus of the host's `step` (log 1). -/
def execShl (s : State) : Host.Outcome State Fault Refusal := execute (shlOn Bus.ram64) s

/-- `shr` (R123). -/
def shrOn (B : Bus) : State → Result Unit := shiftHandler B Alu.shr

/-- `shr` on RAM64, the bus of the host's `step` (log 1). -/
def execShr (s : State) : Host.Outcome State Fault Refusal := execute (shrOn Bus.ram64) s

/-- `sal` (R124). -/
def salOn (B : Bus) : State → Result Unit := shiftHandler B Alu.sal

/-- `sal` on RAM64, the bus of the host's `step` (log 1). -/
def execSal (s : State) : Host.Outcome State Fault Refusal := execute (salOn Bus.ram64) s

/-- `sar` (R125). -/
def sarOn (B : Bus) : State → Result Unit := shiftHandler B Alu.sar

/-- `sar` on RAM64, the bus of the host's `step` (log 1). -/
def execSar (s : State) : Host.Outcome State Fault Refusal := execute (sarOn Bus.ram64) s

/-- `rol` (R126). -/
def rolOn (B : Bus) : State → Result Unit := shiftHandler B Alu.rol

/-- `rol` on RAM64, the bus of the host's `step` (log 1). -/
def execRol (s : State) : Host.Outcome State Fault Refusal := execute (rolOn Bus.ram64) s

/-- `ror` (R127). -/
def rorOn (B : Bus) : State → Result Unit := shiftHandler B Alu.ror

/-- `ror` on RAM64, the bus of the host's `step` (log 1). -/
def execRor (s : State) : Host.Outcome State Fault Refusal := execute (rorOn Bus.ram64) s

/-- `rcl` (R128). -/
def rclOn (B : Bus) : State → Result Unit := shiftHandler B Alu.rcl

/-- `rcl` on RAM64, the bus of the host's `step` (log 1). -/
def execRcl (s : State) : Host.Outcome State Fault Refusal := execute (rclOn Bus.ram64) s

/-- `rcr` (R129). -/
def rcrOn (B : Bus) : State → Result Unit := shiftHandler B Alu.rcr

/-- `rcr` on RAM64, the bus of the host's `step` (log 1). -/
def execRcr (s : State) : Host.Outcome State Fault Refusal := execute (rcrOn Bus.ram64) s

end Sys2Proof.Machine
end

