-- ==== Sys2Proof/Machine/Dispatch.lean ====
section
/-! DEFINITION. The dispatch: one arm per constructor of Instr. A handler takes the CPU alone and never the selectors of
the key (R86), so the arms drop the constructors' arguments. -/

namespace Sys2Proof.Machine

def exec (i : Instr) (s : State) : Host.Outcome State Fault Refusal :=
  match i with
  | .nop => Sys2Proof.Machine.execNop s
  | .hlt => Sys2Proof.Machine.execHlt s
  | .add _ _ => Sys2Proof.Machine.execAdd s
  | .sub _ _ => Sys2Proof.Machine.execSub s
  | .adc _ _ => Sys2Proof.Machine.execAdc s
  | .sbb _ _ => Sys2Proof.Machine.execSbb s
  | .and _ _ => Sys2Proof.Machine.execAnd s
  | .or _ _ => Sys2Proof.Machine.execOr s
  | .xor _ _ => Sys2Proof.Machine.execXor s
  | .not _ => Sys2Proof.Machine.execNot s
  | .neg _ => Sys2Proof.Machine.execNeg s
  | .shl _ _ => Sys2Proof.Machine.execShl s
  | .shr _ _ => Sys2Proof.Machine.execShr s
  | .sal _ _ => Sys2Proof.Machine.execSal s
  | .sar _ _ => Sys2Proof.Machine.execSar s
  | .rol _ _ => Sys2Proof.Machine.execRol s
  | .ror _ _ => Sys2Proof.Machine.execRor s
  | .rcl _ _ => Sys2Proof.Machine.execRcl s
  | .rcr _ _ => Sys2Proof.Machine.execRcr s
  | .cmp _ _ => Sys2Proof.Machine.execCmp s
  | .test _ _ => Sys2Proof.Machine.execTest s
  | .xchg _ _ => Sys2Proof.Machine.execXchg s
  | .xadd _ _ => Sys2Proof.Machine.execXadd s
  | .cmpxchg _ _ => Sys2Proof.Machine.execCmpxchg s
  | .cmpxchg8b _ _ => Sys2Proof.Machine.execCmpxchg8b s
  | .cmpsb _ _ => Sys2Proof.Machine.execCmpsb s
  | .cmpsw _ _ => Sys2Proof.Machine.execCmpsw s
  | .cmpsd _ _ => Sys2Proof.Machine.execCmpsd s
  | .cmpsq _ _ => Sys2Proof.Machine.execCmpsq s

end Sys2Proof.Machine
end

