-- ==== Sys2Proof/Machine/Engine.lean ====
section
/-! DEFINITION. The step around the instruction, over any bus: its preconditions, its fetch and its lookup (R80, R81, R82);
and how a word is laid out where the step fetches. -/

namespace Sys2Proof.Machine

/-- What a step requires, in this order: `state = running`, then a bus (R82, R156, R196); the refusal, if one is not met. -/
def State.notReady (s : State) : Option Refusal :=
  match s.runState, s.bus with
  | .running, .bound => none
  | .running, .unbound => some .noBus
  | .init, _ => some (.wrongState .init)
  | .halted, _ => some (.wrongState .halted)
  | .error, _ => some (.wrongState .error)

/-- The key at `pc` on RAM64 (R81). -/
def State.key (s : State) : Key := s.mem.read32 (s.get .pc)

/-- The fetch: `key <- MemRead(pc, 4)`, one transaction, at `pc` as it is (R81). -/
def fetch (B : Bus) (s : State) : Key × State := busRead32 B (s.get .pc) s

/-- The state after the fetch on RAM64: only the log has changed. -/
def State.fetched (s : State) : State := (fetch Bus.ram64 s).2

/-- `step()` (R82), on a bus, with `ex` holding the handler and the end of the step: the preconditions, the fetch, the
lookup, then the instruction or the dispatch miss. -/
def stepWith (B : Bus) (ex : Instr → State → Host.Outcome State Fault Refusal) (s : State) :
    Host.Outcome State Fault Refusal :=
  match s.notReady with
  | some r => .refused r
  | none =>
    match fetch B s with
    | (key, s') =>
      match lookup key with
      | none => .next s'.takeMiss
      | some i => ex i s'

/-- The memory with an instruction of `nbits` bits at address `a`: bit 0 of `w` is bit 0 of the byte at `a`; the three
64-bit slots an instruction can span are written, `SLOT` apart, zero above `nbits` (R44, R60). -/
def Memory.withInstruction (m : Memory) (a : Word) (nbits w : Nat) : Memory :=
  ((m.write64 a (BitVec.ofNat 64 (w % 2 ^ nbits))).write64 (a + Config.params.slot)
    (BitVec.ofNat 64 (w % 2 ^ nbits / 2 ^ 64))).write64 (a + 2 * Config.params.slot) (BitVec.ofNat 64 (w % 2 ^ nbits / 2 ^ 128))

/-- The machine as a host has made it ready to step (R193, R195): a bus bound, the run state `running`. -/
def State.readied (s : State) : State := { s with runState := .running, bus := .bound }

end Sys2Proof.Machine
end

