-- ==== Sys2Proof/Machine/Step.lean ====
section
/-! DEFINITION. One step (R82) of the core bound to RAM64. On any other bus it is `stepOn` (R42). -/

namespace Sys2Proof.Machine

/-- `step()` (R82), with RAM64 as the bus (R57; log 1). -/
def step (s : State) : Host.Outcome State Fault Refusal := stepWith Bus.ram64 exec s

/-- The state with an instruction placed where the next step fetches it, and the machine ready to step: what the host
does before a first step (R199; log 12). -/
def State.withFetchWord (s : State) (nbits w : Nat) : State :=
  { s.readied with mem := s.mem.withInstruction (s.get .pc) nbits w }

end Sys2Proof.Machine
end

