-- ==== Sys2Proof/Machine/OnBus.lean ====
section
/-! DEFINITION. The machine over any bus (R42): the handlers, the instructions and the step, each with the bus it is bound to as
its argument. `exec` and `step`, whose types the host fixes, are these on RAM64 (log 1). -/

namespace Sys2Proof.Machine

/-- The handler that the dispatch table has for an instruction, on a bus (R86). -/
def handlerOf (B : Bus) (i : Instr) : State → Result Unit :=
  match i with
  | .nop => nopOn B
  | .hlt => hltOn B
  | .add _ _ => addOn B
  | .sub _ _ => subOn B
  | .adc _ _ => adcOn B
  | .sbb _ _ => sbbOn B
  | .and _ _ => andOn B
  | .or _ _ => orOn B
  | .xor _ _ => xorOn B
  | .not _ => notOn B
  | .neg _ => negOn B
  | .shl _ _ => shlOn B
  | .shr _ _ => shrOn B
  | .sal _ _ => salOn B
  | .sar _ _ => sarOn B
  | .rol _ _ => rolOn B
  | .ror _ _ => rorOn B
  | .rcl _ _ => rclOn B
  | .rcr _ _ => rcrOn B
  | .cmp _ _ => cmpOn B
  | .test _ _ => testOn B
  | .xchg _ _ => xchgOn B
  | .xadd _ _ => xaddOn B
  | .cmpxchg _ _ => cmpxchgOn B
  | .cmpxchg8b _ _ => cmpxchg8bOn B
  | .cmpsb _ _ => cmpsbOn B
  | .cmpsw _ _ => cmpswOn B
  | .cmpsd _ _ => cmpsdOn B
  | .cmpsq _ _ => cmpsqOn B

/-- An instruction executed on a bus (R82, R86). -/
def execOn (B : Bus) (i : Instr) (s : State) : Host.Outcome State Fault Refusal := execute (handlerOf B i) s

/-- `step()` of a core bound to a bus (R42, R82). -/
def stepOn (B : Bus) (s : State) : Host.Outcome State Fault Refusal := stepWith B (execOn B) s

end Sys2Proof.Machine
end

