-- ==== Sys2Proof/Machine/Interface.lean ====
section
/-! DEFINITION. The interface between the host and the core (70_reset_and_hazards.md sections 1 to 3): every operation
the host can perform, between two steps (R168, D30). Each is written over any bus (R42); `step`, `run`, `irq`, `nmi` and
`hostCall` are the operations with RAM64 bound (log 1). -/

namespace Sys2Proof.Machine

/-- `reset()`: registers 0, no bus, `init`; allowed in every run state; no transaction, and memory is not touched (R190,
D25). -/
def resetCore (s : State) : State := { State.reset with mem := s.mem, log := s.log }

/-- `start()`: the first half of `run()` (R195); refused outside `init` (R196). -/
def start (s : State) : Host.Outcome State Fault Refusal :=
  match s.runState with
  | .init => .next { s with runState := .running }
  | .running => .refused (.wrongState .running)
  | .halted => .refused (.wrongState .halted)
  | .error => .refused (.wrongState .error)

/-- Steps by `st`, as long as the run state is `running`, at most `fuel` of them (R83; log 13). -/
def runStepsBy (st : State → Host.Outcome State Fault Refusal) : Nat → State → Host.Outcome State Fault Refusal
  | 0, s => .next s
  | fuel + 1, s =>
    match s.runState with
    | .running =>
      match st s with
      | .next t => runStepsBy st fuel t
      | .fault r => .fault r
      | .refused r => .refused r
    | .init => .next s
    | .halted => .next s
    | .error => .next s

/-- `run()`, with steps by `st` and with fuel: requires `init` (R83, R196) and a bus (R156), then `start()` and steps. -/
def runBy (st : State → Host.Outcome State Fault Refusal) (fuel : Nat) (s : State) :
    Host.Outcome State Fault Refusal :=
  match start s with
  | .next t =>
    match t.bus with
    | .unbound => .refused .noBus
    | .bound => runStepsBy st fuel t
  | .fault r => .fault r
  | .refused r => .refused r

/-- The steps of `run()`. -/
def runSteps (fuel : Nat) (s : State) : Host.Outcome State Fault Refusal := runStepsBy step fuel s

/-- `run()`, with fuel. -/
def run (fuel : Nat) (s : State) : Host.Outcome State Fault Refusal := runBy step fuel s

/-- `irq(vector)` (R165): refused without a bus; dropped, with no effect at all, while `I` is 0. -/
def irqOn (B : Bus) (vector : Word) (s : State) : Host.Outcome State Fault Refusal :=
  match s.bus with
  | .unbound => .refused .noBus
  | .bound => .next (if s.getFlag .irqEnable then takeInterrupt B Config.params.irqVectorBase vector true s else s)

/-- `nmi(vector)` (R166): refused without a bus; otherwise taken. -/
def nmiOn (B : Bus) (vector : Word) (s : State) : Host.Outcome State Fault Refusal :=
  match s.bus with
  | .unbound => .refused .noBus
  | .bound => .next (takeInterrupt B Config.params.nmiVectorBase vector false s)

/-- The host performs the return sequence of R171 through the bus and the accessors (log 26). -/
def hostReturnOn (B : Bus) (s : State) : Host.Outcome State Fault Refusal :=
  match s.bus with
  | .unbound => .refused .noBus
  | .bound => .next (returnSequence B s)

/-- `irq(vector)`. -/
def irq (vector : Word) (s : State) : Host.Outcome State Fault Refusal := irqOn Bus.ram64 vector s

/-- `nmi(vector)`. -/
def nmi (vector : Word) (s : State) : Host.Outcome State Fault Refusal := nmiOn Bus.ram64 vector s

/-- The return sequence, performed by the host. -/
def hostReturn (s : State) : Host.Outcome State Fault Refusal := hostReturnOn Bus.ram64 s

/-- The calls of the host. `state()` and the register reads have no effect (R194, R197): they are `State.runState` and
`State.get`. -/
inductive HostCall where
  /-- `reset()` (R190) -/
  | reset
  /-- bind the host's bus (R193) -/
  | bind
  /-- drop the binding (R193) -/
  | unbind
  /-- bind another bus, with these contents (R193; log 3); the contents are those of RAM64 (log 28) -/
  | swapBus (image : List (Word × Byte))
  /-- the host writes a byte of its bus's memory; no transaction of the core (R199, U12; log 22); on a bus
  other than RAM64: log 28 -/
  | poke (a : Word) (b : Byte)
  /-- a register accessor, written through the 64-bit view (R194) -/
  | writeReg (r : Reg) (v : Word)
  /-- a register accessor, written through element `i` of the view as two 32-bit words (R13, R194) -/
  | writeLane32 (r : Reg) (i : Fin 2) (x : BitVec 32)
  /-- the view as four 16-bit half-words (R13, R194) -/
  | writeLane16 (r : Reg) (i : Fin 4) (x : BitVec 16)
  /-- the view as eight bytes (R13, R194) -/
  | writeLane8 (r : Reg) (i : Fin 8) (x : Byte)
  /-- the double-precision view (R13, R194; log 19) -/
  | writeFloat (r : Reg) (x : Binary64)
  /-- `start()` (R195) -/
  | start
  /-- `step()` (R82) -/
  | step
  /-- `run()`, at most `fuel` steps (R83; log 13) -/
  | run (fuel : Nat)
  /-- `irq(vector)` (R165) -/
  | irq (vector : Word)
  /-- `nmi(vector)` (R166) -/
  | nmi (vector : Word)
  /-- the return sequence (R171) -/
  | interruptReturn
  deriving DecidableEq, Repr

/-- What each call does, with `B` the bus bound and `st` the step on it (70_reset_and_hazards.md section 2). DESIGN CHOICE,
unsafe on a bus other than RAM64: `poke` and `swapBus` write `State.mem` as the cells of RAM64 whatever `B` is, so for a coded
bus they can leave cells that are the code of no state; the spec leaves the backend to the host (R42; log 28). -/
def hostCallBy (B : Bus) (st : State → Host.Outcome State Fault Refusal) (c : HostCall) (s : State) : Host.Outcome State Fault Refusal :=
  match c with
  | .reset => .next (resetCore s)
  | .bind => .next { s with bus := .bound }
  | .unbind => .next { s with bus := .unbound }
  | .swapBus image => .next { s with bus := .bound, mem := Memory.ofImage image }
  | .poke a b => .next { s with mem := s.mem.write8 a b }
  | .writeReg r v => .next (s.set r v)
  | .writeLane32 r i x => .next (s.set r (laneSet 32 i (s.get r) x))
  | .writeLane16 r i x => .next (s.set r (laneSet 16 i (s.get r) x))
  | .writeLane8 r i x => .next (s.set r (laneSet 8 i (s.get r) x))
  | .writeFloat r x => .next (s.set r (binary64Put x))
  | .start => start s
  | .step => st s
  | .run fuel => runBy st fuel s
  | .irq v => irqOn B v s
  | .nmi v => nmiOn B v s
  | .interruptReturn => hostReturnOn B s

/-- The calls of the host on a core bound to a bus `B` (R42). A core bound to another bus goes on with that one (R193).
For `poke` and `swapBus` on a bus other than RAM64 see log 28. -/
def hostCallOn (B : Bus) (c : HostCall) (s : State) : Host.Outcome State Fault Refusal := hostCallBy B (stepOn B) c s

/-- The calls of the host on a core bound to RAM64 (log 1). -/
def hostCall (c : HostCall) (s : State) : Host.Outcome State Fault Refusal := hostCallBy Bus.ram64 step c s

end Sys2Proof.Machine
end

