-- ==== Sys2Proof/Safety.lean ====
section
/-! DEFINITION. What counts as a safe state and a safe run, in the words the statements use. -/

namespace Sys2Proof.Machine

/-- The outcome value fits the run state (R23, R150, R151): a halted core reports `Halted`, a core in `error` one of the
two handler failures, a core that has not left `init` nothing, a running core no failure. -/
def State.coherent (s : State) : Bool :=
  match s.runState, s.report with
  | .init, .noStepYet => true
  | .running, .noStepYet => true
  | .running, .ok => true
  | .halted, .failed .halted => true
  | .error, .failed (.invalidAddressingMode _) => true
  | .error, .failed (.registerIndexOutOfRange _) => true
  | _, _ => false

/-- The invariant of the machine: the memory has its canonical form and the outcome value fits the run state. -/
def State.inv (s : State) : Bool := s.mem.wf && s.coherent

/-- A run has ended (R84). -/
def State.ended (s : State) : Bool := s.runState = .halted || s.runState = .error

/-- A run that ended by `hlt`: halted, and `ILL` clear, if it was clear before (R152, R197). -/
def State.gracefulHalt (s : State) : Bool := s.runState = .halted && !s.getFlag .illegal

/-- A run that ended by a word that is no instruction (R152, R197). -/
def State.illegalHalt (s : State) : Bool := s.runState = .halted && s.getFlag .illegal

/-- A safe step answers a next state that is not the `error` state: no instruction was abandoned part-way (R24, R157). -/
def stepSafe (s : State) : Bool :=
  match step s with
  | .next t => t.runState ≠ .error
  | .fault _ => false
  | .refused _ => false

/-- A run that is safe for its first `n` steps: each step is safe until the core has halted. -/
def runSafe : Nat → State → Bool
  | 0, _ => true
  | n + 1, s =>
    s.runState = .halted ||
      (stepSafe s &&
        match step s with
        | .next t => runSafe n t
        | .fault _ => false
        | .refused _ => false)

/-- The calls of the host that write the flags register as a whole or in part (R22, R152): reset, the accessors of
`flags`, and the return sequence. -/
def HostCall.writesFlags : HostCall → Bool
  | .reset => true
  | .bind => false
  | .unbind => false
  | .swapBus _ => false
  | .poke _ _ => false
  | .writeReg r _ => r = .flags
  | .writeLane32 r _ _ => r = .flags
  | .writeLane16 r _ _ => r = .flags
  | .writeLane8 r _ _ => r = .flags
  | .writeFloat r _ => r = .flags
  | .start => false
  | .step => false
  | .run _ => false
  | .irq _ => false
  | .nmi _ => false
  | .interruptReturn => true

/-! ## The words the statements about instructions use -/

/-- The shapes of instruction: which operands are read and written, and in what order. -/
inductive Shape where
  /-- `nop`, `hlt`: no operand -/
  | control
  /-- operand 1 read and written -/
  | unary
  /-- both operands read, operand 1 written -/
  | update
  /-- as `update`, then the carry -/
  | shift
  /-- both operands read, nothing written back -/
  | compare
  /-- both operands read, both written -/
  | exchange
  /-- both operands read, operand 1 written if it equals `r0` -/
  | compareExchange
  /-- a unit copied, both operands read -/
  | block
  deriving DecidableEq, Repr

end Sys2Proof.Machine

namespace Sys2Proof

/-- The shape of each instruction (the rules R110 to R139). -/
def Instr.shape : Instr → Machine.Shape
  | .nop => .control
  | .hlt => .control
  | .add _ _ => .update
  | .sub _ _ => .update
  | .adc _ _ => .update
  | .sbb _ _ => .update
  | .and _ _ => .update
  | .or _ _ => .update
  | .xor _ _ => .update
  | .not _ => .unary
  | .neg _ => .unary
  | .shl _ _ => .shift
  | .shr _ _ => .shift
  | .sal _ _ => .shift
  | .sar _ _ => .shift
  | .rol _ _ => .shift
  | .ror _ _ => .shift
  | .rcl _ _ => .shift
  | .rcr _ _ => .shift
  | .cmp _ _ => .compare
  | .test _ _ => .compare
  | .xchg _ _ => .exchange
  | .xadd _ _ => .exchange
  | .cmpxchg _ _ => .compareExchange
  | .cmpxchg8b _ _ => .compareExchange
  | .cmpsb _ _ => .block
  | .cmpsw _ _ => .block
  | .cmpsd _ _ => .block
  | .cmpsq _ _ => .block

/-- The unit a block instruction copies (R136 to R139). -/
def Instr.unitSize : Instr → Option Machine.UnitSize
  | .nop => none
  | .hlt => none
  | .add _ _ => none
  | .sub _ _ => none
  | .adc _ _ => none
  | .sbb _ _ => none
  | .and _ _ => none
  | .or _ _ => none
  | .xor _ _ => none
  | .not _ => none
  | .neg _ => none
  | .shl _ _ => none
  | .shr _ _ => none
  | .sal _ _ => none
  | .sar _ _ => none
  | .rol _ _ => none
  | .ror _ _ => none
  | .rcl _ _ => none
  | .rcr _ _ => none
  | .cmp _ _ => none
  | .test _ _ => none
  | .xchg _ _ => none
  | .xadd _ _ => none
  | .cmpxchg _ _ => none
  | .cmpxchg8b _ _ => none
  | .cmpsb _ _ => some .byte
  | .cmpsw _ _ => some .word
  | .cmpsd _ _ => some .dword
  | .cmpsq _ _ => some .qword

end Sys2Proof

namespace Sys2Proof.Machine

/-- A step that returned `ok`: `pc` advanced and the outcome `ok` (R82). -/
def State.done (s : State) : State := { s.advance with report := .ok }

/-- The transactions of reading operand 1 at `l1`, then operand 2 at `l2`. -/
def State.readsTraffic (s : State) (l1 l2 : Location) : List Transaction := s.readTraffic .one l1 ++ s.readTraffic .two l2

/-- The transactions of an update that reads both operands and writes `v` to operand 1. -/
def State.updateTraffic (s : State) (l1 l2 : Location) (v : Word) : List Transaction :=
  s.readsTraffic l1 l2 ++ s.writeTraffic .one l1 v

/-- The carry as the number 0 or 1 that `adc` and `sbb` fold in (R114, R115). -/
def State.carryIn (s : State) : Word := if s.getFlag .carry then 1 else 0

/-- Operand `k` resolves: its mode exists and, where it names a register, the index does (R154, R155). -/
def State.canRead (s : State) (k : Operand) : Prop := ∃ l, s.location k = .ok l

/-- Operand `k` resolves to what can be written: not to an immediate (R91, R94). -/
def State.canWrite (s : State) (k : Operand) : Prop := ∃ l, s.location k = .ok l ∧ l.writable = true

/-! ## Two buses that a core cannot tell apart -/

/-- Two buses whose states, as far as `R` relates them, answer every read alike, and stay related by every transaction
(R41, R42). -/
structure BusesAlike (B C : Bus) (R : Memory → Memory → Prop) : Prop where
  read8 : ∀ a m n, R m n → (B.read8 a m).1 = (C.read8 a n).1 ∧ R (B.read8 a m).2 (C.read8 a n).2
  read16 : ∀ a m n, R m n → (B.read16 a m).1 = (C.read16 a n).1 ∧ R (B.read16 a m).2 (C.read16 a n).2
  read32 : ∀ a m n, R m n → (B.read32 a m).1 = (C.read32 a n).1 ∧ R (B.read32 a m).2 (C.read32 a n).2
  read64 : ∀ a m n, R m n → (B.read64 a m).1 = (C.read64 a n).1 ∧ R (B.read64 a m).2 (C.read64 a n).2
  write8 : ∀ a v m n, R m n → R (B.write8 a v m) (C.write8 a v n)
  write16 : ∀ a v m n, R m n → R (B.write16 a v m) (C.write16 a v n)
  write32 : ∀ a v m n, R m n → R (B.write32 a v m) (C.write32 a v n)
  write64 : ∀ a v m n, R m n → R (B.write64 a v m) (C.write64 a v n)

/-- Two states that agree in everything but the state of the bus, which `R` relates. -/
def State.alike (R : Memory → Memory → Prop) (s t : State) : Prop :=
  s.regs = t.regs ∧ s.runState = t.runState ∧ s.bus = t.bus ∧ s.report = t.report ∧ s.log = t.log ∧ R s.mem t.mem

/-- Two outcomes that agree so: the same refusal, or next states alike. -/
def outcomesAlike (R : Memory → Memory → Prop) (x y : Host.Outcome State Fault Refusal) : Prop :=
  (∃ r, x = .refused r ∧ y = .refused r) ∨ (∃ s t, x = .next s ∧ y = .next t ∧ s.alike R t)

end Sys2Proof.Machine
end

