-- ==== Sys2Proof/Certificates/Slice0/Obligations.lean ====
section
/-! DEFINITION. The statements for the provers. Each docstring names the rule of spec/ the statement follows. Where a
statement speaks of an operand, `s.location k` is what operand `k` of the instruction at `pc` names in the state `s` (a
literal, a register, or the address of 8 bytes of memory), or the failure its resolution raises, by the same function
the meanings use; `s.valueAt l` is the 64-bit value there, and `s.note ts` is `s` with the transactions `ts` logged. The
fields `report` and `log` are the model's way to hold the outcome of a step and the transactions it issues, both of which
the spec states (log 4, log 5); `exec`, `step` and the calls of the host are those of a core bound to RAM64 (log 1), and the
last statement speaks of any bus. -/

open Sys2Proof Sys2Proof.Machine

/-! ## Reset -/

/-- R190, R191: reset, in any state, zeroes all eleven registers (so every flag is clear), drops the bus binding,
returns to `init`, issues no transaction and leaves memory alone; the power-on state has the same registers, binding and
run state. -/
def Obligations.ResetAndPowerOn : Prop :=
  (∀ s : State, ∃ t, hostCall .reset s = .next t ∧ (∀ r, t.get r = 0) ∧ (∀ f, t.getFlag f = false) ∧
    t.bus = .unbound ∧ t.runState = .init ∧ t.mem = s.mem ∧ t.log = s.log ∧
    t.regs = State.reset.regs ∧ t.bus = State.reset.bus ∧ t.runState = State.reset.runState)

/-- The invariant (canonical memory, and an outcome value that fits the run state) holds right after reset. That memory
lists nothing and that no outcome is recorded at reset are the model's choices (log 2, log 5). -/
def Obligations.ResetStateSatisfiesInv : Prop := State.reset.inv = true

/-! ## Invariants -/

/-- Every step keeps the invariant: the memory's canonical form (the model's own, log 1) and the agreement of the outcome
value with the run state (R23, R150, R151). -/
def Obligations.StepKeepsInv : Prop :=
  ∀ s t : State, s.inv = true → step s = .next t → t.inv = true

/-- Every call of the host keeps the invariant: reset, binding, memory and register writes, start, step, run, irq, nmi,
the return sequence. -/
def Obligations.HostCallsKeepInv : Prop :=
  ∀ (c : HostCall) (s t : State), s.inv = true → hostCall c s = .next t → t.inv = true

/-! ## Encoding -/

/-- R61, R66, R67: decoding the key of a well-formed instruction gives it back, for every instruction and every
combination of selectors in its menu. -/
def Obligations.DecodeOfEncode : Prop := ∀ i : Instr, i.wellFormed = true → decode (encode i) = .ok i

/-- R69: a word selects an instruction exactly when it is equal, in all 32 bits, to the key of that instruction, the
instruction being one of the dispatch table's; a word with any of the bits 15:9 set selects nothing. -/
def Obligations.LookupMatchesAllBits : Prop :=
  ∀ (w : Key) (i : Instr),
    (lookup w = some i ↔ i.wellFormed = true ∧ encode i = w) ∧ (w.reserved ≠ 0 → lookup w = none)

/-- R68: the dispatch table has exactly 152 keys. -/
def Obligations.DispatchTableHas152Keys : Prop :=
  ∃ keys : List Key, keys.length = 152 ∧ keys.Nodup ∧ ∀ w : Key, w ∈ keys ↔ (lookup w).isSome = true

/-- A few keys written out from R61, R66 and R67 decode to the instruction they stand for, and a few other words do
not decode. Of those the spec says only that they select nothing: the reasons, and which of them comes first, are the
model's choice (log 25). -/
def Obligations.SampleKeysDecode : Prop :=
  decode 0x00000000 = .ok .nop ∧ decode 0x00010000 = .ok .hlt ∧ decode 0x0002000A = .ok (.add .dir .rd) ∧
  decode 0x00090003 = .ok (.not .ri) ∧ decode 0x000B0001 = .ok (.shl .rd .imm) ∧ decode 0x00140011 = .ok (.test .rd .dir) ∧
  decode 0x00160009 = .ok (.xadd .rd .rd) ∧ decode 0x001B0002 = .ok (.cmpsd .dir .imm) ∧
  decode 0x00020000 = .error .notInMenu ∧ decode 0x00020201 = .error .reservedBitsSet ∧
  decode 0x001D0001 = .error .unassignedOpcode ∧ decode 0xFFFFFFFF = .error .reservedBitsSet

/-- R86: a handler receives neither the key nor its selectors, so two entries of one mnemonic behave identically. -/
def Obligations.EntriesOfOneMnemonicAgree : Prop :=
  ∀ (i j : Instr) (s : State), i.opcode = j.opcode → exec i s = exec j s

/-! ## The step -/

/-- R82: in a running core with a bus, when the 32 bits at `pc` decode to `i`, the step is `i` executed in the state
whose log has the fetch as its newest transaction. -/
def Obligations.StepRunsTheDecodedInstr : Prop :=
  ∀ (s : State) (i : Instr), s.runState = .running → s.bus = .bound → decode (s.mem.read32 (s.get .pc)) = .ok i →
    step s = exec i (s.note [.read32 (s.get .pc) (s.mem.read32 (s.get .pc))])

/-- R152: when the 32 bits at `pc` are no key of the dispatch table, the step sets `ILL`, halts with the outcome
`Halted`, keeps `pc` and every other register and all of memory, and its only transaction is the fetch; `ILL` then stays set
whatever the host calls, unless it resets the core or writes the flags register. -/
def Obligations.UnregisteredWordHalts : Prop :=
  ∀ s : State, s.runState = .running → s.bus = .bound →
    (∀ i : Instr, i.wellFormed = true → encode i ≠ s.mem.read32 (s.get .pc)) →
    ∃ t, step s = .next t ∧ t.runState = .halted ∧ t.report = .failed .halted ∧
      (∀ r, r ≠ .flags → t.get r = s.get r) ∧ t.get .flags = s.get .flags ||| 0x100 ∧
      (∀ a, t.mem.read8 a = s.mem.read8 a) ∧ t.bus = s.bus ∧
      t.log = s.log ++ [.read32 (s.get .pc) (s.mem.read32 (s.get .pc))] ∧
      ∀ (c : HostCall) (u : State), c.writesFlags = false → hostCall c t = .next u → u.getFlag .illegal = true

/-- 70_reset_and_hazards.md section 2: `step()` outside `running`, `run()` and `start()` outside `init` are refused; a
refusal holds no state, so nothing changes. That the refusal carries the run state as its reason is the model's choice
(log 7); which reason a call with no bus in the wrong state gets is left open here (log 27). -/
def Obligations.WrongStateIsRefused : Prop :=
  ∀ (s : State) (fuel : Nat),
    (s.runState ≠ .running →
      (∃ r, step s = .refused r) ∧ (s.bus = .bound → step s = .refused (.wrongState s.runState))) ∧
    (s.runState ≠ .init →
      (∃ r, run fuel s = .refused r) ∧ (s.bus = .bound → run fuel s = .refused (.wrongState s.runState))) ∧
    (s.runState ≠ .init → start s = .refused (.wrongState s.runState))

/-- R156: without a bus, `step`, `run`, `irq` and `nmi` are refused. -/
def Obligations.NoBusIsRefused : Prop :=
  ∀ (s : State) (vector : Word) (fuel : Nat), s.bus = .unbound →
    (s.runState = .running → step s = .refused .noBus) ∧ (s.runState = .init → run fuel s = .refused .noBus) ∧
    irq vector s = .refused .noBus ∧ nmi vector s = .refused .noBus

/-- The first transaction of every step is the 32-bit read at `pc` (40_execution_engine.md section 1). -/
def Obligations.FetchIsTheFirstTransaction : Prop :=
  ∀ s t : State, step s = .next t →
    ∃ rest, t.log = s.log ++ .read32 (s.get .pc) (s.mem.read32 (s.get .pc)) :: rest

/-- After the fetch, every transaction of an instruction other than `cmpsb`, `cmpsw` and `cmpsd` is a 16-bit read, a
64-bit read or a 64-bit write (20_memory.md section 2). -/
def Obligations.NarrowAccessOnlyInBlockCopies : Prop :=
  ∀ (s t : State) (i : Instr), lookup (s.mem.read32 (s.get .pc)) = some i →
    (i.unitSize = none ∨ i.unitSize = some .qword) → step s = .next t →
    ∃ rest, t.log = s.log ++ .read32 (s.get .pc) (s.mem.read32 (s.get .pc)) :: rest ∧
      ∀ x ∈ rest, (∃ a v, x = .read16 a v) ∨ (∃ a v, x = .read64 a v) ∨ (∃ a v, x = .write64 a v)

/-- A step leaves the core running with the outcome `ok`, halted with `Halted`, or in `error` with one of the two handler
failures, and never in `init` (10_state.md section 4, R23's rows for a step). -/
def Obligations.RunStateAfterStep : Prop :=
  ∀ s t : State, step s = .next t →
    (t.runState = .running ∧ t.report = .ok) ∨ (t.runState = .halted ∧ t.report = .failed .halted) ∨
    (t.runState = .error ∧ ∃ tag, t.report = .failed (.invalidAddressingMode tag)) ∨
    (t.runState = .error ∧ ∃ index, t.report = .failed (.registerIndexOutOfRange index))

/-- R153: a step halts exactly when the word at `pc` is the key of `hlt` or no key at all; in both cases the outcome is
`Halted` and `pc` keeps the address of the word; `ILL` is as before after `hlt` and set after a miss. -/
def Obligations.HaltedExactlyOnHltOrMiss : Prop :=
  ∀ s t : State, step s = .next t →
    (t.runState = .halted ↔ s.mem.read32 (s.get .pc) = 0x00010000 ∨ lookup (s.mem.read32 (s.get .pc)) = none) ∧
    (t.runState = .halted → t.report = .failed .halted ∧ t.get .pc = s.get .pc) ∧
    (s.mem.read32 (s.get .pc) = 0x00010000 → t.get .flags = s.get .flags) ∧
    (lookup (s.mem.read32 (s.get .pc)) = none → t.getFlag .illegal = true)

/-- The argument of a handler failure is a tag 0, 6 or 7, or an index above 10 (60_exceptions.md section 1, the argument
column of R151). -/
def Obligations.ArgumentsOfHandlerFailures : Prop :=
  ∀ s t : State, step s = .next t →
    (∀ tag, t.report = .failed (.invalidAddressingMode tag) → tag = 0 ∨ tag = 6 ∨ tag = 7) ∧
    (∀ index, t.report = .failed (.registerIndexOutOfRange index) → 10 < index.toNat)

/-- No instruction changes the bus binding (10_state.md section 4: "No instruction reads or writes it"). -/
def Obligations.StepKeepsTheBusBinding : Prop :=
  ∀ s t : State, step s = .next t → t.bus = s.bus

/-- An instruction whose destination is not the flags register writes none of `I`, `D`, `B`, `U`, `V`, `ILL`
(10_state.md section 3, the table of R19). The exchange instructions have two destinations and are left to
`ExchangeFrame`. -/
def Obligations.FlagsWithNoWriter : Prop :=
  ∀ (s t : State) (i : Instr) (f : Flag), lookup (s.mem.read32 (s.get .pc)) = some i → i.shape ≠ .exchange →
    s.location .one ≠ .ok (.register .flags) → f ≠ .carry → f ≠ .zero → f ≠ .negative →
    step s = .next t → t.getFlag f = s.getFlag f

/-- Where `pc` goes (10_state.md section 2, 40_execution_engine.md section 1): an instruction whose destination is not
register 9 is followed at `pc + 2 * SLOT` when the core still runs, and `pc` is as before when it does not. The exchange
instructions have two destinations and are left to `ExchangeResults`. -/
def Obligations.PcAfterStep : Prop :=
  ∀ (s t : State) (i : Instr), lookup (s.mem.read32 (s.get .pc)) = some i → i.shape ≠ .exchange →
    s.location .one ≠ .ok (.register .pc) → step s = .next t →
    (t.runState = .running → t.get .pc = s.get .pc + 2 * Config.params.slot) ∧
    (t.runState ≠ .running → t.get .pc = s.get .pc)

/-! ## The instructions complete, and with what result -/

/-- R110: `nop` has the one key 0x0000_0000, and any other word with opcode 0 is illegal; the handler issues no
transaction, and the step as a whole fetches and changes `pc` and nothing else; in memory that is zero everywhere every
step is a `nop`, and the run never ends. -/
def Obligations.NopResult : Prop :=
  (∀ w : Key, (lookup w = some .nop ↔ w = 0x00000000) ∧ (w.opcode = 0 → w ≠ 0x00000000 → lookup w = none)) ∧
  (∀ s : State, s.bus = .bound →
    exec .nop s = .next { s with regs := s.regs.set .pc (s.get .pc + 2 * Config.params.slot), report := .ok }) ∧
  (∀ s : State, s.runState = .running → s.bus = .bound → s.mem.read32 (s.get .pc) = 0x00000000 →
    step s = .next { s with
      regs := s.regs.set .pc (s.get .pc + 2 * Config.params.slot)
      report := .ok
      log := s.log ++ [.read32 (s.get .pc) 0x00000000] }) ∧
  (∀ (n : Nat) (s : State), s.runState = .running → s.bus = .bound → (∀ a, s.mem.read8 a = 0) →
    ∃ t, runSteps n s = .next t ∧ t.runState = .running ∧
      t.get .pc = s.get .pc + BitVec.ofNat 64 n * (2 * Config.params.slot))

/-- R111: `hlt` has the one key 0x0001_0000; it halts with the outcome `Halted`, changes no register (`pc` and the flags
included) and issues no transaction. -/
def Obligations.HltResult : Prop :=
  (∀ w : Key, lookup w = some .hlt ↔ w = 0x00010000) ∧
  ∀ s : State, s.bus = .bound → exec .hlt s = .next { s with runState := .halted, report := .failed .halted }

/-- 42_arithmetic.md: `add`, `sub`, `adc`, `sbb` with both operands readable and operand 1 writable. The whole next state
is given: the sum or difference at operand 1, no flag written, the transactions in order, `pc` advanced. -/
def Obligations.ArithmeticResults : Prop :=
  ∀ (a b : Mode) (s : State) (l1 l2 : Location), s.bus = .bound → s.location .one = .ok l1 → s.location .two = .ok l2 →
    l1.writable = true →
    exec (.add a b) s = .next ((s.store l1 (s.valueAt l1 + s.valueAt l2)).note
      (s.updateTraffic l1 l2 (s.valueAt l1 + s.valueAt l2))).done ∧
    exec (.sub a b) s = .next ((s.store l1 (s.valueAt l1 - s.valueAt l2)).note
      (s.updateTraffic l1 l2 (s.valueAt l1 - s.valueAt l2))).done ∧
    exec (.adc a b) s = .next ((s.store l1 (s.valueAt l1 + s.valueAt l2 + s.carryIn)).note
      (s.updateTraffic l1 l2 (s.valueAt l1 + s.valueAt l2 + s.carryIn))).done ∧
    exec (.sbb a b) s = .next ((s.store l1 (s.valueAt l1 - s.valueAt l2 - s.carryIn)).note
      (s.updateTraffic l1 l2 (s.valueAt l1 - s.valueAt l2 - s.carryIn))).done

/-- 43_bitwise.md: `and`, `or`, `xor` with both operands readable and operand 1 writable; the whole next state, no flag
written. -/
def Obligations.BitwiseResults : Prop :=
  ∀ (a b : Mode) (s : State) (l1 l2 : Location), s.bus = .bound → s.location .one = .ok l1 → s.location .two = .ok l2 →
    l1.writable = true →
    exec (.and a b) s = .next ((s.store l1 (s.valueAt l1 &&& s.valueAt l2)).note
      (s.updateTraffic l1 l2 (s.valueAt l1 &&& s.valueAt l2))).done ∧
    exec (.or a b) s = .next ((s.store l1 (s.valueAt l1 ||| s.valueAt l2)).note
      (s.updateTraffic l1 l2 (s.valueAt l1 ||| s.valueAt l2))).done ∧
    exec (.xor a b) s = .next ((s.store l1 (s.valueAt l1 ^^^ s.valueAt l2)).note
      (s.updateTraffic l1 l2 (s.valueAt l1 ^^^ s.valueAt l2))).done

/-- 43_bitwise.md: `not` and `neg` with operand 1 readable and writable; the whole next state, no flag written; operand 2
is not read as a value. `neg` equals the complement plus 1. -/
def Obligations.NotAndNegResults : Prop :=
  ∀ (a : Mode) (s : State) (l1 : Location), s.bus = .bound → s.location .one = .ok l1 → l1.writable = true →
    exec (.not a) s = .next ((s.store l1 (~~~(s.valueAt l1))).note
      (s.readTraffic .one l1 ++ s.writeTraffic .one l1 (~~~(s.valueAt l1)))).done ∧
    exec (.neg a) s = .next ((s.store l1 (~~~(s.valueAt l1) + 1)).note
      (s.readTraffic .one l1 ++ s.writeTraffic .one l1 (~~~(s.valueAt l1) + 1))).done

/-- 44_shift_rotate.md: `shl`, `shr`, `sal`, `sar` compute `n` repetitions of their one-bit step on the value and the
carry, `n` being all 64 bits of operand 2; the value goes to operand 1, then the carry to `C`. The whole next state. -/
def Obligations.ShiftResults : Prop :=
  ∀ (a b : Mode) (s : State) (l1 l2 : Location), s.bus = .bound → s.location .one = .ok l1 → s.location .two = .ok l2 →
    l1.writable = true →
    (∀ x, x = Alu.repeatBit Alu.shlBit (s.valueAt l2).toNat (s.valueAt l1, s.getFlag .carry) →
      exec (.shl a b) s = .next (((s.store l1 x.1).setFlag .carry x.2).note (s.updateTraffic l1 l2 x.1)).done ∧
      exec (.sal a b) s = .next (((s.store l1 x.1).setFlag .carry x.2).note (s.updateTraffic l1 l2 x.1)).done) ∧
    (∀ x, x = Alu.repeatBit Alu.shrBit (s.valueAt l2).toNat (s.valueAt l1, s.getFlag .carry) →
      exec (.shr a b) s = .next (((s.store l1 x.1).setFlag .carry x.2).note (s.updateTraffic l1 l2 x.1)).done) ∧
    (∀ x, x = Alu.repeatBit Alu.sarBit (s.valueAt l2).toNat (s.valueAt l1, s.getFlag .carry) →
      exec (.sar a b) s = .next (((s.store l1 x.1).setFlag .carry x.2).note (s.updateTraffic l1 l2 x.1)).done)

/-- 44_shift_rotate.md: `rol`, `ror`, `rcl`, `rcr`, in the same form. -/
def Obligations.RotateResults : Prop :=
  ∀ (a b : Mode) (s : State) (l1 l2 : Location), s.bus = .bound → s.location .one = .ok l1 → s.location .two = .ok l2 →
    l1.writable = true →
    (∀ x, x = Alu.repeatBit Alu.rolBit (s.valueAt l2).toNat (s.valueAt l1, s.getFlag .carry) →
      exec (.rol a b) s = .next (((s.store l1 x.1).setFlag .carry x.2).note (s.updateTraffic l1 l2 x.1)).done) ∧
    (∀ x, x = Alu.repeatBit Alu.rorBit (s.valueAt l2).toNat (s.valueAt l1, s.getFlag .carry) →
      exec (.ror a b) s = .next (((s.store l1 x.1).setFlag .carry x.2).note (s.updateTraffic l1 l2 x.1)).done) ∧
    (∀ x, x = Alu.repeatBit Alu.rclBit (s.valueAt l2).toNat (s.valueAt l1, s.getFlag .carry) →
      exec (.rcl a b) s = .next (((s.store l1 x.1).setFlag .carry x.2).note (s.updateTraffic l1 l2 x.1)).done) ∧
    (∀ x, x = Alu.repeatBit Alu.rcrBit (s.valueAt l2).toNat (s.valueAt l1, s.getFlag .carry) →
      exec (.rcr a b) s = .next (((s.store l1 x.1).setFlag .carry x.2).note (s.updateTraffic l1 l2 x.1)).done)

/-- 45_compare.md: `cmp` and `test` with both operands readable (an immediate operand 1 included): `Z` and `N` take their
conditions, the comparison unsigned; nothing is written back. The whole next state. -/
def Obligations.CompareResults : Prop :=
  ∀ (a b : Mode) (s : State) (l1 l2 : Location), s.bus = .bound → s.location .one = .ok l1 → s.location .two = .ok l2 →
    exec (.cmp a b) s = .next ((((s.setFlag .zero (decide (s.valueAt l1 = s.valueAt l2))).setFlag .negative
      (decide ((s.valueAt l1).toNat < (s.valueAt l2).toNat))).note (s.readsTraffic l1 l2)).done) ∧
    exec (.test a b) s = .next ((((s.setFlag .zero (decide (s.valueAt l1 &&& s.valueAt l2 = 0))).setFlag .negative
      (decide ((s.valueAt l1).toNat < (s.valueAt l2).toNat))).note (s.readsTraffic l1 l2)).done)

/-- 46_exchange.md: `xchg` and `xadd` with both operands readable, operand 1 writable, and operand 2, as it resolves in
the state the first write leaves (R204), writable: operand 1 receives operand 2 or the sum, then operand 2 the old
operand 1. The whole next state, no flag written. -/
def Obligations.ExchangeResults : Prop :=
  ∀ (a b : Mode) (s : State) (l1 l2 m : Location), s.bus = .bound → s.location .one = .ok l1 → s.location .two = .ok l2 →
    l1.writable = true → m.writable = true →
    (∀ s1, s1 = s.store l1 (s.valueAt l2) → s1.location .two = .ok m →
      exec (.xchg a b) s = .next ((s1.store m (s.valueAt l1)).note
        (s.updateTraffic l1 l2 (s.valueAt l2) ++ s1.writeTraffic .two m (s.valueAt l1))).done) ∧
    (∀ s1, s1 = s.store l1 (s.valueAt l1 + s.valueAt l2) → s1.location .two = .ok m →
      exec (.xadd a b) s = .next ((s1.store m (s.valueAt l1)).note
        (s.updateTraffic l1 l2 (s.valueAt l1 + s.valueAt l2) ++ s1.writeTraffic .two m (s.valueAt l1))).done)

/-- 46_exchange.md: `cmpxchg` and `cmpxchg8b` with both operands readable: if operand 1 equals `r0` and is writable it
receives operand 2; if it differs nothing is written, `r0` is not loaded and no write is tried, whatever its mode. The
whole next state, no flag written. -/
def Obligations.CompareExchangeResults : Prop :=
  ∀ (a b : Mode) (s : State) (l1 l2 : Location), s.bus = .bound → s.location .one = .ok l1 → s.location .two = .ok l2 →
    (s.valueAt l1 = s.get .r0 → l1.writable = true →
      exec (.cmpxchg a b) s = .next ((s.store l1 (s.valueAt l2)).note (s.updateTraffic l1 l2 (s.valueAt l2))).done ∧
      exec (.cmpxchg8b a b) s = .next ((s.store l1 (s.valueAt l2)).note (s.updateTraffic l1 l2 (s.valueAt l2))).done) ∧
    (s.valueAt l1 ≠ s.get .r0 →
      exec (.cmpxchg a b) s = .next (s.note (s.readsTraffic l1 l2)).done ∧
      exec (.cmpxchg8b a b) s = .next (s.note (s.readsTraffic l1 l2)).done)

/-- 47_block_copy.md: `cmpsb`, `cmpsw`, `cmpsd`, `cmpsq` with both operands readable, operand 1 as it resolves after the
copy, operand 2 as it resolves after the copy and the advance of `r6`: the unit is copied from the address in `r7` to the
address in `r6`, then `r6` and `r7` advance by the two operands. The whole next state, no flag written. -/
def Obligations.BlockCopyResults : Prop :=
  ∀ (i : Instr) (u : UnitSize) (s s1 s2 : State) (l1 l2 : Location), i.unitSize = some u → s.bus = .bound →
    s1 = s.copied u → s1.location .one = .ok l1 → s2 = s1.set .r6 (s.get .r6 + s1.valueAt l1) →
    s2.location .two = .ok l2 →
    exec i s = .next ((s2.set .r7 (s2.get .r7 + s2.valueAt l2)).note
      (s.copyTraffic u ++ s1.readTraffic .one l1 ++ s2.readTraffic .two l2)).done

/-! ## Where the instructions fail -/

/-- An operand that does not resolve (R154, R155, R158): the failure of the first such operand is taken, with no register
and no memory changed; the transactions are those up to the failing operand's two slot reads. -/
def Obligations.UnreadableOperandsFail : Prop :=
  ∀ (i : Instr) (s : State) (f : Failure), s.bus = .bound → i.shape ≠ .control → i.shape ≠ .block →
    (s.location .one = .error f → exec i s = .next ((s.note (s.slotTraffic .one)).takeFailure f)) ∧
    (∀ l1, i.shape ≠ .unary → s.location .one = .ok l1 → s.location .two = .error f →
      exec i s = .next ((s.note (s.readTraffic .one l1 ++ s.slotTraffic .two)).takeFailure f))

/-- An immediate destination (R154, R158): after the reads, the write of operand 1 raises `InvalidAddressingMode(0)`; no
register and no memory has changed. For `cmpxchg` and `cmpxchg8b` this needs the comparison to succeed. -/
def Obligations.ImmediateDestinationFails : Prop :=
  ∀ (i : Instr) (s : State) (l1 l2 : Location), s.bus = .bound → s.location .one = .ok l1 → l1.writable = false →
    (i.shape = .unary →
      exec i s = .next ((s.note (s.readTraffic .one l1 ++ s.slotTraffic .one)).takeFailure (.invalidAddressingMode 0))) ∧
    ((i.shape = .update ∨ i.shape = .shift ∨ i.shape = .exchange ∨
        (i.shape = .compareExchange ∧ s.valueAt l1 = s.get .r0)) → s.location .two = .ok l2 →
      exec i s = .next ((s.note (s.readsTraffic l1 l2 ++ s.slotTraffic .one)).takeFailure (.invalidAddressingMode 0)))

/-- R157 for `xchg` and `xadd`: when the second write fails, the first has happened and stays. -/
def Obligations.ExchangeKeepsItsFirstWrite : Prop :=
  ∀ (a b : Mode) (s : State) (l1 l2 : Location), s.bus = .bound → s.location .one = .ok l1 → s.location .two = .ok l2 →
    l1.writable = true →
    (∀ s1, s1 = s.store l1 (s.valueAt l2) →
      (∀ f, s1.location .two = .error f →
        exec (.xchg a b) s = .next ((s1.note (s.updateTraffic l1 l2 (s.valueAt l2) ++ s1.slotTraffic .two)).takeFailure f)) ∧
      (∀ m, s1.location .two = .ok m → m.writable = false →
        exec (.xchg a b) s = .next ((s1.note (s.updateTraffic l1 l2 (s.valueAt l2) ++ s1.slotTraffic .two)).takeFailure
          (.invalidAddressingMode 0)))) ∧
    (∀ s1, s1 = s.store l1 (s.valueAt l1 + s.valueAt l2) →
      (∀ f, s1.location .two = .error f →
        exec (.xadd a b) s = .next ((s1.note (s.updateTraffic l1 l2 (s.valueAt l1 + s.valueAt l2) ++
          s1.slotTraffic .two)).takeFailure f)) ∧
      (∀ m, s1.location .two = .ok m → m.writable = false →
        exec (.xadd a b) s = .next ((s1.note (s.updateTraffic l1 l2 (s.valueAt l1 + s.valueAt l2) ++
          s1.slotTraffic .two)).takeFailure (.invalidAddressingMode 0))))

/-- R157 for the block copies: when operand 1 does not resolve, the unit has been copied; when operand 2 does not, `r6` has
advanced too. -/
def Obligations.BlockCopyKeepsTheCopy : Prop :=
  ∀ (i : Instr) (u : UnitSize) (s s1 : State) (f : Failure), i.unitSize = some u → s.bus = .bound → s1 = s.copied u →
    (s1.location .one = .error f →
      exec i s = .next ((s1.note (s.copyTraffic u ++ s1.slotTraffic .one)).takeFailure f)) ∧
    (∀ (l1 : Location) (s2 : State), s1.location .one = .ok l1 → s2 = s1.set .r6 (s.get .r6 + s1.valueAt l1) →
      s2.location .two = .error f →
      exec i s = .next ((s2.note (s.copyTraffic u ++ s1.readTraffic .one l1 ++ s2.slotTraffic .two)).takeFailure f))

/-! ## Frames: what an instruction leaves unchanged, whenever it answers a next state -/

/-- The frame of `add`, `sub`, `adc`, `sbb`, `and`, `or`, `xor`, `not`, `neg`, `cmpxchg`, `cmpxchg8b`: every register but
`pc` and the destination register is unchanged (so every flag is, unless the destination is the flags register), every
byte of memory but the eight of a destination in memory, and the bus binding. -/
def Obligations.UpdateFrame : Prop :=
  ∀ (i : Instr) (s t : State), (i.shape = .update ∨ i.shape = .unary ∨ i.shape = .compareExchange) →
    exec i s = .next t →
    (∀ r, r ≠ .pc → s.location .one ≠ .ok (.register r) → t.get r = s.get r) ∧
    (∀ b, (∀ a, s.location .one = .ok (.memory a) → inSpan a 8 b = false) → t.mem.read8 b = s.mem.read8 b) ∧
    t.bus = s.bus

/-- The frame of the shifts and rotates: as `UpdateFrame`, but that bit 0 of the flags register, `C`, may change too. -/
def Obligations.ShiftFrame : Prop :=
  ∀ (i : Instr) (s t : State), i.shape = .shift → exec i s = .next t →
    (∀ r, r ≠ .pc → r ≠ .flags → s.location .one ≠ .ok (.register r) → t.get r = s.get r) ∧
    (s.location .one ≠ .ok (.register .flags) →
      ∀ n, n ≠ Flag.carry.position → (t.get .flags).getLsbD n = (s.get .flags).getLsbD n) ∧
    (∀ b, (∀ a, s.location .one = .ok (.memory a) → inSpan a 8 b = false) → t.mem.read8 b = s.mem.read8 b) ∧
    t.bus = s.bus

/-- The frame of `cmp` and `test`: every register but `pc` and `flags` is unchanged, every bit of `flags` but `Z` and `N`,
all of memory, and the bus binding. -/
def Obligations.CompareFrame : Prop :=
  ∀ (i : Instr) (s t : State), i.shape = .compare → exec i s = .next t →
    (∀ r, r ≠ .pc → r ≠ .flags → t.get r = s.get r) ∧
    (∀ n, n ≠ Flag.zero.position → n ≠ Flag.negative.position →
      (t.get .flags).getLsbD n = (s.get .flags).getLsbD n) ∧
    (∀ b, t.mem.read8 b = s.mem.read8 b) ∧ t.bus = s.bus

/-- The frame of `xchg` and `xadd`. The second destination is operand 2 as it resolves in the state `s1` that the first
write leaves, with the value each of the two writes first. Every register but `pc` and the destinations is unchanged, every
byte outside the eight of each destination in memory, and the bus binding. -/
def Obligations.ExchangeFrame : Prop :=
  ∀ (a b : Mode) (s t s1 : State) (i : Instr),
    ((i = .xchg a b ∧ ∀ l1 l2, s.location .one = .ok l1 → s.location .two = .ok l2 → s1 = s.store l1 (s.valueAt l2)) ∨
     (i = .xadd a b ∧ ∀ l1 l2, s.location .one = .ok l1 → s.location .two = .ok l2 →
        s1 = s.store l1 (s.valueAt l1 + s.valueAt l2))) →
    exec i s = .next t →
    (∀ r, r ≠ .pc → s.location .one ≠ .ok (.register r) → s1.location .two ≠ .ok (.register r) → t.get r = s.get r) ∧
    (∀ x, (∀ d, s.location .one = .ok (.memory d) → inSpan d 8 x = false) →
      (∀ d, s1.location .two = .ok (.memory d) → inSpan d 8 x = false) → t.mem.read8 x = s.mem.read8 x) ∧
    t.bus = s.bus

/-- The frame of the block copies: every register but `pc`, `r6` and `r7` is unchanged (so every flag is), every byte of
memory but those of the unit at the address in `r6`, and the bus binding. -/
def Obligations.BlockCopyFrame : Prop :=
  ∀ (i : Instr) (u : UnitSize) (s t : State), i.unitSize = some u → exec i s = .next t →
    (∀ r, r ≠ .pc → r ≠ .r6 → r ≠ .r7 → t.get r = s.get r) ∧
    (∀ b, inSpan (s.get .r6) u.bytes b = false → t.mem.read8 b = s.mem.read8 b) ∧ t.bus = s.bus

/-- The frame of `nop` and `hlt`: every register but `pc`, all of memory, the bus binding, and the log: neither handler
issues a transaction. -/
def Obligations.ControlFrame : Prop :=
  ∀ (i : Instr) (s t : State), i.shape = .control → exec i s = .next t →
    (∀ r, r ≠ .pc → t.get r = s.get r) ∧ (∀ b, t.mem.read8 b = s.mem.read8 b) ∧ t.bus = s.bus ∧ t.log = s.log

/-! ## The shifts and rotates: `n` one-bit steps and the closed forms of the rules -/

/-- R122, R123, R125: `n` repetitions of the one-bit step give the table of the rule, for every `n`. -/
def Obligations.ShiftLoopsHaveClosedForms : Prop :=
  ∀ (a : Word) (c : Bool) (n : Nat),
    Alu.repeatBit Alu.shlBit n (a, c) =
      (if n = 0 then (a, c) else if n ≤ 63 then (a <<< n, a.getLsbD (64 - n))
       else if n = 64 then (0, a.getLsbD 0) else (0, false)) ∧
    Alu.repeatBit Alu.shrBit n (a, c) =
      (if n = 0 then (a, c) else if n ≤ 63 then (a >>> n, a.getLsbD (n - 1))
       else if n = 64 then (0, a.getLsbD 63) else (0, false)) ∧
    Alu.repeatBit Alu.sarBit n (a, c) =
      (if n = 0 then (a, c)
       else if n ≤ 63 then
         (if a.getLsbD 63 then (a >>> n) ||| (BitVec.allOnes 64 <<< (64 - n)) else a >>> n, a.getLsbD (n - 1))
       else (if a.getLsbD 63 then BitVec.allOnes 64 else 0, a.getLsbD 63))

/-- R126 to R129: `n` repetitions of the one-bit step give the closed form of the rule, for every `n`. For `rcl` and `rcr`
the value and the carry are the 65-bit quantity `C ++ a`, rotated by `n mod 65`. -/
def Obligations.RotateLoopsHaveClosedForms : Prop :=
  ∀ (a : Word) (c : Bool) (n : Nat),
    (n = 0 → Alu.repeatBit Alu.rolBit n (a, c) = (a, c) ∧ Alu.repeatBit Alu.rorBit n (a, c) = (a, c)) ∧
    (∀ r, r = (if n % 64 = 0 then a else (a <<< (n % 64)) ||| (a >>> (64 - n % 64))) → n ≠ 0 →
      Alu.repeatBit Alu.rolBit n (a, c) = (r, r.getLsbD 0)) ∧
    (∀ r, r = (if n % 64 = 0 then a else (a >>> (n % 64)) ||| (a <<< (64 - n % 64))) → n ≠ 0 →
      Alu.repeatBit Alu.rorBit n (a, c) = (r, r.getLsbD 63)) ∧
    (∀ x : BitVec 65, x = BitVec.ofBool c ++ a →
      (∀ y, y = (x <<< (n % 65)) ||| (x >>> (65 - n % 65)) →
        Alu.repeatBit Alu.rclBit n (a, c) = (y.extractLsb' 0 64, y.getLsbD 64)) ∧
      (∀ y, y = (x >>> (n % 65)) ||| (x <<< (65 - n % 65)) →
        Alu.repeatBit Alu.rcrBit n (a, c) = (y.extractLsb' 0 64, y.getLsbD 64)))

/-! ## Interrupts and the stack -/

/-- R165: `irq` is refused without a bus, and dropped, with no effect at all, while `I` is 0. Otherwise it pushes `pc` and then the old
flags, sets `I`, clears `B`, and takes `pc` from the table entry, read after the pushes; nothing else changes, not the run
state. In canonical memory the two words are found at `sp` and `sp + 8` afterwards. -/
def Obligations.IrqEntry : Prop :=
  ∀ (vector : Word) (s : State),
    (s.bus = .unbound → irq vector s = .refused .noBus) ∧
    (s.bus = .bound → s.getFlag .irqEnable = false → irq vector s = .next s) ∧
    (s.bus = .bound → s.getFlag .irqEnable = true → ∃ t, irq vector s = .next t ∧
      t.get .sp = s.get .sp - 16 ∧
      t.mem = (s.mem.write64 (s.get .sp - 8) (s.get .pc)).write64 (s.get .sp - 16) (s.get .flags) ∧
      t.get .flags = (s.get .flags ||| 0x4) &&& ~~~0x10 ∧
      t.get .pc = t.mem.read64 (Config.params.irqVectorBase + vector) ∧
      (∀ r, r ≠ .sp → r ≠ .flags → r ≠ .pc → t.get r = s.get r) ∧ t.runState = s.runState ∧ t.bus = s.bus ∧
      t.log = s.log ++ [.write64 (s.get .sp - 8) (s.get .pc), .write64 (s.get .sp - 16) (s.get .flags),
        .read64 (Config.params.irqVectorBase + vector) (t.get .pc)] ∧
      (s.mem.wf = true → t.mem.read64 (t.get .sp) = s.get .flags ∧ t.mem.read64 (t.get .sp + 8) = s.get .pc))

/-- R166: `nmi` is refused without a bus; otherwise it does not consult `I`, pushes as `irq` does, sets `I`, keeps `B` and
takes `pc` from its own table. -/
def Obligations.NmiEntry : Prop :=
  ∀ (vector : Word) (s : State), (s.bus = .unbound → nmi vector s = .refused .noBus) ∧
    (s.bus = .bound → ∃ t, nmi vector s = .next t ∧
    t.get .sp = s.get .sp - 16 ∧
    t.mem = (s.mem.write64 (s.get .sp - 8) (s.get .pc)).write64 (s.get .sp - 16) (s.get .flags) ∧
    t.get .flags = s.get .flags ||| 0x4 ∧
    t.get .pc = t.mem.read64 (Config.params.nmiVectorBase + vector) ∧
    (∀ r, r ≠ .sp → r ≠ .flags → r ≠ .pc → t.get r = s.get r) ∧ t.runState = s.runState ∧ t.bus = s.bus ∧
    t.log = s.log ++ [.write64 (s.get .sp - 8) (s.get .pc), .write64 (s.get .sp - 16) (s.get .flags),
      .read64 (Config.params.nmiVectorBase + vector) (t.get .pc)] ∧
    (s.mem.wf = true → t.mem.read64 (t.get .sp) = s.get .flags ∧ t.mem.read64 (t.get .sp + 8) = s.get .pc))

/-- 60_exceptions.md section 4: the return sequence undoes an entry by `irq` or `nmi` exactly: all eleven registers are as
before the entry, in canonical memory. The sequence is the host's; no instruction performs it (log 26). -/
def Obligations.ReturnUndoesEntry : Prop :=
  ∀ (vector : Word) (s t : State), s.mem.wf = true →
    ((s.getFlag .irqEnable = true ∧ irq vector s = .next t) ∨ nmi vector s = .next t) →
    ∃ u, hostReturn t = .next u ∧ u.regs = s.regs ∧ u.runState = s.runState ∧ u.mem = t.mem

/-- R96, R97: with a bus, `push` moves `sp` down by 8 and writes there; `pop` reads at `sp` and moves it up by 8; `pop` after
`push` returns the value and restores `sp`, in canonical memory. -/
def Obligations.PushThenPop : Prop :=
  ∀ (s : State) (v : Word), s.bus = .bound →
    (push Bus.ram64 v s).get .sp = s.get .sp - 8 ∧ (push Bus.ram64 v s).mem = s.mem.write64 (s.get .sp - 8) v ∧
    (push Bus.ram64 v s).log = s.log ++ [.write64 (s.get .sp - 8) v] ∧
    (pop Bus.ram64 s).1 = s.mem.read64 (s.get .sp) ∧ (pop Bus.ram64 s).2.get .sp = s.get .sp + 8 ∧
    (pop Bus.ram64 s).2.mem = s.mem ∧
    (pop Bus.ram64 s).2.log = s.log ++ [.read64 (s.get .sp) (s.mem.read64 (s.get .sp))] ∧
    (∀ r, r ≠ .sp → (push Bus.ram64 v s).get r = s.get r ∧ (pop Bus.ram64 s).2.get r = s.get r) ∧
    (s.mem.wf = true → (pop Bus.ram64 (push Bus.ram64 v s)).1 = v ∧
      (pop Bus.ram64 (push Bus.ram64 v s)).2.regs = s.regs)

/-! ## Runs -/

/-- R84: `halted` and `error` are terminal: no step happens in them, `reset` returns the machine to `init`, and no other
call of the host leaves them; in particular an interrupt does not wake a halted core. -/
def Obligations.EndedRunsStayEnded : Prop :=
  ∀ s : State, s.ended = true →
    (∃ r, step s = .refused r) ∧ (∃ t, hostCall .reset s = .next t ∧ t.runState = .init) ∧
    ∀ (c : HostCall) (t : State), c ≠ .reset → hostCall c s = .next t → t.runState = s.runState

/-- `run()` is `start()` and then steps until the run state leaves `running` (R83, R195): with a bus and in `init`, what
`run` answers is what some number of steps gives from the started state, all the fuel spent or the run ended. Fuel is the
model's (log 13). -/
def Obligations.RunIsStartThenSteps : Prop :=
  ∀ (fuel : Nat) (s : State), s.bus = .bound → s.runState = .init →
    start s = .next { s with runState := .running } ∧
    ∃ (t : State) (k : Nat), run fuel s = .next t ∧ k ≤ fuel ∧
      Host.Core.run Sys2Proof.core k { s with runState := .running } = .next t ∧ (k = fuel ∨ t.runState ≠ .running) ∧
      ∀ (j : Nat) (u : State), j < k →
        Host.Core.run Sys2Proof.core j { s with runState := .running } = .next u → u.runState = .running

/-- When a step ends in `error` (R82, R151, R154, R155, R157): exactly when an operand that is read does not resolve, or one
that is written does not resolve or is immediate. A dispatch miss, `nop` and `hlt` never do. The second write of `xchg` and
`xadd` is tried in the state the first one leaves, and the operands of a block copy are read after the copy. -/
def Obligations.StepErrsExactlyOnOperandFailure : Prop :=
  ∀ s t : State, step s = .next t →
    (lookup (s.mem.read32 (s.get .pc)) = none → t.runState ≠ .error) ∧
    ∀ i : Instr, lookup (s.mem.read32 (s.get .pc)) = some i →
      (i.shape = .control → t.runState ≠ .error) ∧
      (i.shape = .unary → (t.runState = .error ↔ ¬ s.canWrite .one)) ∧
      (i.shape = .update ∨ i.shape = .shift → (t.runState = .error ↔ ¬ (s.canWrite .one ∧ s.canRead .two))) ∧
      (i.shape = .compare → (t.runState = .error ↔ ¬ (s.canRead .one ∧ s.canRead .two))) ∧
      (i.shape = .compareExchange →
        (t.runState = .error ↔ ¬ (s.canRead .two ∧
          ∃ l1, s.location .one = .ok l1 ∧ (s.valueAt l1 = s.get .r0 → l1.writable = true)))) ∧
      (∀ a b, i = .xchg a b →
        (t.runState = .error ↔ ¬ ∃ l1 l2, s.location .one = .ok l1 ∧ s.location .two = .ok l2 ∧ l1.writable = true ∧
          (s.store l1 (s.valueAt l2)).canWrite .two)) ∧
      (∀ a b, i = .xadd a b →
        (t.runState = .error ↔ ¬ ∃ l1 l2, s.location .one = .ok l1 ∧ s.location .two = .ok l2 ∧ l1.writable = true ∧
          (s.store l1 (s.valueAt l1 + s.valueAt l2)).canWrite .two)) ∧
      (∀ u, i.unitSize = some u →
        (t.runState = .error ↔ ¬ ∃ l1, (s.copied u).location .one = .ok l1 ∧
          ((s.copied u).set .r6 (s.get .r6 + (s.copied u).valueAt l1)).canRead .two))

/-! ## Memory, registers, flags, the resolver -/

/-- The agreement of widths (20_memory.md section 4): a narrower read at an address gives the low-order part of the wider
read at the same address. -/
def Obligations.NarrowReadsAreLowOrder : Prop :=
  ∀ (m : Memory) (a : Word),
    m.read16 a = (m.read64 a).extractLsb' 0 16 ∧ m.read32 a = (m.read64 a).extractLsb' 0 32 ∧
    m.read8 a = (m.read64 a).extractLsb' 0 8

/-- R57: RAM64. Byte `i` of a read is the byte at `a + i` modulo 2^64; a write stores byte `i` of the value at `a + i` and
changes no other byte; a byte not listed is 0. The canonical form is the model's (log 1). -/
def Obligations.MemoryIsRam64 : Prop :=
  (∀ (m : Memory) (a : Word) (i : Nat),
    (i < 2 → (m.read16 a).extractLsb' (8 * i) 8 = m.read8 (a + BitVec.ofNat 64 i)) ∧
    (i < 4 → (m.read32 a).extractLsb' (8 * i) 8 = m.read8 (a + BitVec.ofNat 64 i)) ∧
    (i < 8 → (m.read64 a).extractLsb' (8 * i) 8 = m.read8 (a + BitVec.ofNat 64 i))) ∧
  (∀ (m : Memory) (a b : Word), m.wf = true →
    (∀ v, (m.write8 a v).read8 a = v ∧ (inSpan a 1 b = false → (m.write8 a v).read8 b = m.read8 b)) ∧
    (∀ v, (∀ i < 2, (m.write16 a v).read8 (a + BitVec.ofNat 64 i) = v.extractLsb' (8 * i) 8) ∧
      (inSpan a 2 b = false → (m.write16 a v).read8 b = m.read8 b)) ∧
    (∀ v, (∀ i < 4, (m.write32 a v).read8 (a + BitVec.ofNat 64 i) = v.extractLsb' (8 * i) 8) ∧
      (inSpan a 4 b = false → (m.write32 a v).read8 b = m.read8 b)) ∧
    (∀ v, (∀ i < 8, (m.write64 a v).read8 (a + BitVec.ofNat 64 i) = v.extractLsb' (8 * i) 8) ∧
      (inSpan a 8 b = false → (m.write64 a v).read8 b = m.read8 b))) ∧
  (∀ a : Word, Memory.read8 [] a = 0)

/-- R14: a register access with an index above 10, compared in all 64 bits, raises `RegisterIndexOutOfRange` with the
index, and reads or writes nothing; an index up to 10 is one of the eleven registers, in the order of R11. -/
def Obligations.RegisterIndexIsChecked : Prop :=
  (∀ (tag : Selector) (index data : Word) (s : State), (tag = 1 ∨ tag = 3 ∨ tag = 5) → 10 < index.toNat →
    resolveRead Bus.ram64 tag index s = .raised (.registerIndexOutOfRange index) s ∧
    resolveWrite Bus.ram64 tag index data s = .raised (.registerIndexOutOfRange index) s) ∧
  (∀ index : Word, index.toNat ≤ 10 → ∃ r, Reg.ofIndex index = some r ∧ Reg.all[index.toNat]? = some r)

/-- R20, R21: `flag(F)` is the bit of the flags register at the position of R18; writing it sets or clears that bit, by the
formula of R21, and changes no other bit and nothing else. -/
def Obligations.FlagWriteIsOneBit : Prop :=
  ∀ (s : State) (f : Flag) (b : Bool),
    s.getFlag f = (s.get .flags).getLsbD f.position ∧
    s.setFlag f b = s.set .flags
      (if b then s.get .flags ||| ((1 : Word) <<< f.position) else s.get .flags &&& ~~~((1 : Word) <<< f.position)) ∧
    (∀ n, ((s.setFlag f b).get .flags).getLsbD n = if n = f.position then b else (s.get .flags).getLsbD n) ∧
    (∀ r, r ≠ .flags → (s.setFlag f b).get r = s.get r)

/-- The views of a register value alias the same 64 bits (10_state.md section 1): a lane written is read back, the other
lanes are as before, and the double-precision view is another way to write the same bits. The lane order is D26; the
binary64 fields are general knowledge (log 19). -/
def Obligations.RegisterViewsAlias : Prop :=
  ∀ v : Word,
    (∀ (i j : Nat) (x : BitVec 32), i < 2 → j < 2 → laneGet 32 j (laneSet 32 i v x) = if j = i then x else laneGet 32 j v) ∧
    (∀ (i j : Nat) (x : BitVec 16), i < 4 → j < 4 → laneGet 16 j (laneSet 16 i v x) = if j = i then x else laneGet 16 j v) ∧
    (∀ (i j : Nat) (x : BitVec 8), i < 8 → j < 8 → laneGet 8 j (laneSet 8 i v x) = if j = i then x else laneGet 8 j v) ∧
    binary64Put (binary64Get v) = v

/-- R87 to R89: an access to operand `k` is the 16-bit read of the mode field `mf` at `pc + 2 * SLOT`, then the 64-bit read
of the operand value at `a = pc + k * SLOT`, then the resolver on bits `3k - 1 : 3k - 3` of `mf` and that value, in the state
that differs by those two transactions. R90, R91: reading and writing in each mode, the register named being any of the
eleven: what is read or written, the one transaction of the memory modes, and the tags and the register indices that
fail, changing nothing. The last clauses say the same of `locate`, `valueAt` and `store`, by which the statements about
instructions speak of operands. -/
def Obligations.ResolverReadsAndWrites : Prop :=
  (∀ (s s' : State) (k : Operand) (mf : ModeField) (sel : Selector) (a x data : Word),
    mf = s.mem.read16 (s.get .pc + 2 * Config.params.slot) →
    (k = .one ∧ a = s.get .pc + Config.params.slot ∧ sel = mf.extractLsb' 0 3) ∨
      (k = .two ∧ a = s.get .pc + 2 * Config.params.slot ∧ sel = mf.extractLsb' 3 3) ∨
      (k = .three ∧ a = s.get .pc + 3 * Config.params.slot ∧ sel = mf.extractLsb' 6 3) →
    x = s.mem.read64 a → s' = s.note [.read16 (s.get .pc + 2 * Config.params.slot) mf, .read64 a x] →
    opRead Bus.ram64 k s = resolveRead Bus.ram64 sel x s' ∧
    opWrite Bus.ram64 k data s = resolveWrite Bus.ram64 sel x data s' ∧
    s.selector k = sel ∧ s.operandValue k = x ∧ s.location k = locate sel x s ∧
    s.slotTraffic k = [.read16 (s.get .pc + 2 * Config.params.slot) mf, .read64 a x]) ∧
  (∀ (s : State) (v data : Word) (r : Reg) (i : Word), Reg.ofIndex i = some r →
    resolveRead Bus.ram64 0 v s = .ok v s ∧
    resolveWrite Bus.ram64 0 v data s = .raised (.invalidAddressingMode 0) s ∧
    resolveRead Bus.ram64 1 i s = .ok (s.get r) s ∧ resolveWrite Bus.ram64 1 i data s = .ok () (s.set r data) ∧
    (∀ tag x a, (tag = 2 ∧ x = v ∧ a = v) ∨ (tag = 3 ∧ x = i ∧ a = s.get r) ∨ (tag = 4 ∧ x = v ∧ a = s.get .r6 + v) ∨
        (tag = 5 ∧ x = i ∧ a = s.get .r6 + s.get r) →
      resolveRead Bus.ram64 tag x s = .ok (s.mem.read64 a) (s.note [.read64 a (s.mem.read64 a)]) ∧
      resolveWrite Bus.ram64 tag x data s = .ok () ({ s with mem := s.mem.write64 a data }.note [.write64 a data]) ∧
      locate tag x s = .ok (.memory a)) ∧
    (∀ tag, tag = 6 ∨ tag = 7 → resolveRead Bus.ram64 tag v s = .raised (.invalidAddressingMode tag) s ∧
      resolveWrite Bus.ram64 tag v data s = .raised (.invalidAddressingMode tag) s ∧
      locate tag v s = .error (.invalidAddressingMode tag)) ∧
    (∀ tag j, (tag = 1 ∨ tag = 3 ∨ tag = 5) → Reg.ofIndex j = none →
      resolveRead Bus.ram64 tag j s = .raised (.registerIndexOutOfRange j) s ∧
      resolveWrite Bus.ram64 tag j data s = .raised (.registerIndexOutOfRange j) s ∧
      locate tag j s = .error (.registerIndexOutOfRange j)) ∧
    locate 0 v s = .ok (.literal v) ∧ locate 1 i s = .ok (.register r) ∧
    s.valueAt (.literal v) = v ∧ s.valueAt (.register r) = s.get r ∧ s.valueAt (.memory v) = s.mem.read64 v ∧
    s.store (.register r) data = s.set r data ∧ s.store (.memory v) data = { s with mem := s.mem.write64 v data })

/-! ## What the overlapping layout forces -/

/-- 70_reset_and_hazards.md section 4: since the slot of operand 2 is also the mode field, a register-indirect or
based-indexed operand 2 always names an index above 10 and never resolves, and a register-direct operand 2 is `sp`, `pc` or
`flags` or does not resolve. -/
def Obligations.OperandTwoIsConfined : Prop :=
  ∀ s : State,
    (s.selector .two = 3 ∨ s.selector .two = 5 →
      s.location .two = .error (.registerIndexOutOfRange (s.operandValue .two))) ∧
    (s.selector .two = 1 →
      s.location .two = .ok (.register .sp) ∨ s.location .two = .ok (.register .pc) ∨
      s.location .two = .ok (.register .flags) ∨
      s.location .two = .error (.registerIndexOutOfRange (s.operandValue .two)))

/-- 70_reset_and_hazards.md section 4: when the word at `slot(2)` of an instruction is the key of `hlt` or `nop`, both its
operands are immediate; so an instruction that writes operand 1 ends in `error` with `InvalidAddressingMode(0)`, every
register and all of memory as before, and the `hlt` or `nop` is not reached; a compare completes. -/
def Obligations.WritersBeforeHltOrNopFail : Prop :=
  ∀ (s t : State) (i : Instr), lookup (s.mem.read32 (s.get .pc)) = some i →
    (s.mem.read32 (s.slot 2) = encode .hlt ∨ s.mem.read32 (s.slot 2) = encode .nop) → step s = .next t →
    (i.shape = .unary ∨ i.shape = .update ∨ i.shape = .shift ∨ i.shape = .exchange →
      t.runState = .error ∧ t.report = .failed (.invalidAddressingMode 0) ∧ t.regs = s.regs ∧ t.mem = s.mem) ∧
    (i.shape = .compare → t.runState = .running ∧ t.get .pc = s.slot 2)

/-! ## Any bus -/

/-- 20_memory.md section 1 (R41, R42): the core sees its bus only through the eight operations. The host's `step` is the step
on RAM64 (log 1); and on two buses that answer every read alike, a step, an `irq` and an `nmi` from states that agree in all
but the state of the bus are refused alike or end in states that agree so. -/
def Obligations.CoreSeesTheBusOnlyThroughItsPort : Prop :=
  (∀ s : State, step s = stepOn Bus.ram64 s) ∧
  ∀ (B C : Bus) (R : Memory → Memory → Prop) (s t : State) (vector : Word), BusesAlike B C R → s.alike R t →
    outcomesAlike R (stepOn B s) (stepOn C t) ∧ outcomesAlike R (irqOn B vector s) (irqOn C vector t) ∧
    outcomesAlike R (nmiOn B vector s) (nmiOn C vector t)
end

