-- ==== Sys2Proof/Laws/Memory.lean ====
section
/-! SUPPORT. The laws of the memory: what a read after a write gives, and that every memory operation keeps the
canonical form. -/

namespace Sys2Proof.Machine

/-! ## One byte -/

/-- A write leaves every other byte alone, in any list of cells. -/
theorem Memory.byte_put_ne (m : Memory) (a x : Nat) (v : Byte) (h : x ≠ a) : (Memory.put m a v).byte x = Memory.byte m x := by
  induction m with
  | nil =>
    unfold Memory.put
    split
    · rfl
    · simp [Memory.byte, h]
  | cons c rest ih =>
    obtain ⟨b, w⟩ := c
    unfold Memory.put
    split
    · split
      · rfl
      · simp [Memory.byte, h]
    · split
      · next hab =>
        subst hab
        split <;> simp [Memory.byte, h]
      · simp only [Memory.byte, ih]

/-- Below the addresses of a canonical list nothing is listed. -/
theorem Memory.byte_of_lt (m : Memory) (lo x : Nat) (hw : Memory.wfFrom lo m = true) (h : x < lo) :
    Memory.byte m x = Config.unlistedByte := by
  induction m generalizing lo with
  | nil => rfl
  | cons c rest ih =>
    obtain ⟨b, w⟩ := c
    simp only [Memory.wfFrom, Bool.and_eq_true, decide_eq_true_eq] at hw
    have hx : x ≠ b := by omega
    simp only [Memory.byte, if_neg hx]
    exact ih (b + 1) hw.2 (by omega)

/-- A byte written is read back, in canonical memory. -/
theorem Memory.byte_put_same (m : Memory) (lo a : Nat) (v : Byte) (hw : Memory.wfFrom lo m = true) :
    (Memory.put m a v).byte a = v := by
  induction m generalizing lo with
  | nil =>
    unfold Memory.put
    split
    · next h => exact h.symm
    · simp [Memory.byte]
  | cons c rest ih =>
    obtain ⟨b, w⟩ := c
    simp only [Memory.wfFrom, Bool.and_eq_true, decide_eq_true_eq] at hw
    unfold Memory.put
    split
    · next hab =>
      split
      · next hv =>
        simp only [Memory.byte, if_neg (show a ≠ b by omega)]
        rw [Memory.byte_of_lt rest (b + 1) a hw.2 (by omega), hv]
      · simp [Memory.byte]
    · split
      · next hab =>
        subst hab
        split
        · next hv => rw [Memory.byte_of_lt rest (a + 1) a hw.2 (by omega), hv]
        · simp [Memory.byte]
      · next hab =>
        simp only [Memory.byte, if_neg hab]
        exact ih (b + 1) hw.2

/-! ## The canonical form -/

theorem Memory.wfFrom_mono (m : Memory) (lo lo' : Nat) (h : lo' ≤ lo) (hw : Memory.wfFrom lo m = true) :
    Memory.wfFrom lo' m = true := by
  cases m with
  | nil => rfl
  | cons c rest =>
    obtain ⟨b, w⟩ := c
    simp only [Memory.wfFrom, Bool.and_eq_true, decide_eq_true_eq] at hw ⊢
    exact ⟨⟨⟨by omega, hw.1.1.2⟩, hw.1.2⟩, hw.2⟩

/-- Writing one byte keeps the canonical form. -/
theorem Memory.wfFrom_put (m : Memory) (lo a : Nat) (v : Byte) (hlo : lo ≤ a) (ha : a < 2 ^ 64)
    (hw : Memory.wfFrom lo m = true) : Memory.wfFrom lo (Memory.put m a v) = true := by
  induction m generalizing lo with
  | nil =>
    unfold Memory.put
    split
    · rfl
    · next hv => simpa [Memory.wfFrom, hlo, hv] using ha
  | cons c rest ih =>
    obtain ⟨b, w⟩ := c
    unfold Memory.put
    have hw' := hw
    simp only [Memory.wfFrom, Bool.and_eq_true, decide_eq_true_eq] at hw'
    split
    · next hab =>
      split
      · exact hw
      · next hv =>
        simp only [Memory.wfFrom, Bool.and_eq_true, decide_eq_true_eq]
        exact ⟨⟨⟨hlo, ha⟩, hv⟩, ⟨⟨⟨by omega, hw'.1.1.2⟩, hw'.1.2⟩, hw'.2⟩⟩
    · split
      · next hab =>
        subst hab
        split
        · exact Memory.wfFrom_mono _ _ _ (by omega) hw'.2
        · next hv =>
          simp only [Memory.wfFrom, Bool.and_eq_true, decide_eq_true_eq]
          exact ⟨⟨⟨hw'.1.1.1, hw'.1.1.2⟩, hv⟩, hw'.2⟩
      · simp only [Memory.wfFrom, Bool.and_eq_true, decide_eq_true_eq]
        exact ⟨hw'.1, ih (b + 1) (by omega) hw'.2⟩

theorem Memory.wf_nil : Memory.wf [] = true := rfl

@[simp] theorem Memory.wf_write8 (m : Memory) (a : Word) (v : Byte) (hw : m.wf = true) : (m.write8 a v).wf = true :=
  Memory.wfFrom_put m 0 a.toNat v (Nat.zero_le _) a.isLt hw

@[simp] theorem Memory.wf_write16 (m : Memory) (a : Word) (v : BitVec 16) (hw : m.wf = true) : (m.write16 a v).wf = true :=
  Memory.wf_write8 _ _ _ (Memory.wf_write8 _ _ _ hw)

@[simp] theorem Memory.wf_write32 (m : Memory) (a : Word) (v : BitVec 32) (hw : m.wf = true) : (m.write32 a v).wf = true :=
  Memory.wf_write16 _ _ _ (Memory.wf_write16 _ _ _ hw)

@[simp] theorem Memory.wf_write64 (m : Memory) (a : Word) (v : Word) (hw : m.wf = true) : (m.write64 a v).wf = true :=
  Memory.wf_write32 _ _ _ (Memory.wf_write32 _ _ _ hw)

theorem Memory.wf_ofImage (image : List (Word × Byte)) : (Memory.ofImage image).wf = true := by
  induction image with
  | nil => rfl
  | cons c rest ih => exact Memory.wf_write8 _ _ _ ih

/-! ## A byte read after a write of any width -/

theorem Memory.read8_write8_same (m : Memory) (a : Word) (v : Byte) (hw : m.wf = true) : (m.write8 a v).read8 a = v :=
  Memory.byte_put_same m 0 a.toNat v hw

theorem Memory.read8_write8_ne (m : Memory) (a b : Word) (v : Byte) (h : b ≠ a) : (m.write8 a v).read8 b = m.read8 b :=
  Memory.byte_put_ne m a.toNat b.toNat v (fun e => h (BitVec.eq_of_toNat_eq e))

theorem inSpan_succ_ne (a b : Word) (n k : Nat) (hk : k < n) (hn : n ≤ 8) (h : inSpan a n b = false) :
    b ≠ a + BitVec.ofNat 64 k := by
  intro e
  subst e
  have : (a + BitVec.ofNat 64 k - a).toNat = k := by
    rw [show a + BitVec.ofNat 64 k - a = BitVec.ofNat 64 k by ring]
    rw [BitVec.toNat_ofNat, Nat.mod_eq_of_lt (by omega)]
  rw [inSpan, this, decide_eq_false_iff_not] at h
  omega

/-- A write of 2 bytes leaves every byte outside them alone. -/
theorem Memory.read8_write16_out (m : Memory) (a b : Word) (v : BitVec 16) (h : inSpan a 2 b = false) :
    (m.write16 a v).read8 b = m.read8 b := by
  have h0 := inSpan_succ_ne a b 2 0 (by omega) (by omega) h
  have h1 := inSpan_succ_ne a b 2 1 (by omega) (by omega) h
  rw [BitVec.add_zero] at h0
  exact (Memory.read8_write8_ne _ _ _ _ h1).trans (Memory.read8_write8_ne _ _ _ _ h0)

theorem inSpan_split (a b : Word) (n k : Nat) (hk : n + k ≤ 8) (h : inSpan a (n + k) b = false) :
    inSpan a n b = false ∧ inSpan (a + BitVec.ofNat 64 n) k b = false := by
  simp only [inSpan, decide_eq_false_iff_not, not_lt] at h ⊢
  refine ⟨by omega, ?_⟩
  have e : b - (a + BitVec.ofNat 64 n) = (b - a) - BitVec.ofNat 64 n := by ring
  have hn : (BitVec.ofNat 64 n).toNat = n := by rw [BitVec.toNat_ofNat, Nat.mod_eq_of_lt (by omega)]
  rw [e, BitVec.toNat_sub_of_le (by rw [BitVec.le_def, hn]; omega), hn]
  omega

/-- A write of 4 bytes leaves every byte outside them alone. -/
theorem Memory.read8_write32_out (m : Memory) (a b : Word) (v : BitVec 32) (h : inSpan a 4 b = false) :
    (m.write32 a v).read8 b = m.read8 b := by
  obtain ⟨h0, h1⟩ := inSpan_split a b 2 2 (by omega) h
  exact (Memory.read8_write16_out _ _ _ _ h1).trans (Memory.read8_write16_out _ _ _ _ h0)

/-- A write of 8 bytes leaves every byte outside them alone. -/
theorem Memory.read8_write64_out (m : Memory) (a b : Word) (v : Word) (h : inSpan a 8 b = false) :
    (m.write64 a v).read8 b = m.read8 b := by
  obtain ⟨h0, h1⟩ := inSpan_split a b 4 4 (by omega) h
  exact (Memory.read8_write32_out _ _ _ _ h1).trans (Memory.read8_write32_out _ _ _ _ h0)

/-- The eight bytes of a 64-bit read, the lowest address last (R44, R57). -/
theorem Memory.read64_eq_bytes (m : Memory) (a : Word) :
    m.read64 a = ((m.read8 (a + 7) ++ m.read8 (a + 6)) ++ (m.read8 (a + 5) ++ m.read8 (a + 4))) ++
      ((m.read8 (a + 3) ++ m.read8 (a + 2)) ++ (m.read8 (a + 1) ++ m.read8 a)) := by
  simp only [Memory.read64, Memory.read32, Memory.read16, BitVec.add_assoc]
  rfl

/-- Two reads agree when the bytes they read agree. -/
theorem Memory.read64_congr (m m' : Memory) (a : Word)
    (h : ∀ k : Nat, k < 8 → m.read8 (a + BitVec.ofNat 64 k) = m'.read8 (a + BitVec.ofNat 64 k)) : m.read64 a = m'.read64 a := by
  have h0 := h 0 (by omega)
  rw [BitVec.add_zero] at h0
  simp only [Memory.read64_eq_bytes]
  congr 2
  · exact congrArg₂ _ (h 7 (by omega)) (h 6 (by omega))
  · exact congrArg₂ _ (h 5 (by omega)) (h 4 (by omega))
  · exact congrArg₂ _ (h 3 (by omega)) (h 2 (by omega))
  · exact congrArg₂ _ (h 1 (by omega)) h0

/-! ## A read after a write of the same width at the same address -/

/-- A value is its two halves put together. -/
theorem append_halves (n : Nat) (v : BitVec (n + n)) : v.extractLsb' n n ++ v.extractLsb' 0 n = v := by
  simp

theorem Memory.read16_write16_same (m : Memory) (a : Word) (v : BitVec 16) (hw : m.wf = true) : (m.write16 a v).read16 a = v := by
  have hne : a ≠ a + 1 := fun h => by
    have := congrArg (fun x => x - a) h
    simp at this
  unfold Memory.write16 Memory.read16
  rw [Memory.read8_write8_same _ _ _ (by simp [hw]), Memory.read8_write8_ne _ _ _ _ hne, Memory.read8_write8_same _ _ _ hw]
  exact append_halves 8 v

theorem inSpan_below (a d j : Word) (k : Nat) (h : ¬ (j - d).toNat < k) : inSpan (a + d) k (a + j) = false := by
  simp only [inSpan, decide_eq_false_iff_not]
  rwa [show a + j - (a + d) = j - d by ring]

theorem Memory.read32_write32_same (m : Memory) (a : Word) (v : BitVec 32) (hw : m.wf = true) : (m.write32 a v).read32 a = v := by
  have h0 : inSpan (a + 2) 2 a = false := by simpa using inSpan_below a 2 0 2 (by decide)
  have h1 : inSpan (a + 2) 2 (a + 1) = false := inSpan_below a 2 1 2 (by decide)
  have hr : ∀ (x : Memory) (w : BitVec 16), (x.write16 (a + 2) w).read16 a = x.read16 a := fun x w => by
    unfold Memory.read16
    rw [Memory.read8_write16_out _ _ _ _ h0, Memory.read8_write16_out _ _ _ _ h1]
  unfold Memory.write32 Memory.read32
  rw [Memory.read16_write16_same _ _ _ (by simp [hw]), hr, Memory.read16_write16_same _ _ _ hw]
  exact append_halves 16 v

theorem Memory.read64_write64_same (m : Memory) (a v : Word) (hw : m.wf = true) : (m.write64 a v).read64 a = v := by
  have h0 : inSpan (a + 4) 4 a = false := by simpa using inSpan_below a 4 0 4 (by decide)
  have h1 : inSpan (a + 4) 4 (a + 1) = false := inSpan_below a 4 1 4 (by decide)
  have h2 : inSpan (a + 4) 4 (a + 2) = false := inSpan_below a 4 2 4 (by decide)
  have h3 : inSpan (a + 4) 4 (a + 2 + 1) = false := by
    rw [show a + 2 + 1 = a + 3 by ring]; exact inSpan_below a 4 3 4 (by decide)
  have hr : ∀ (x : Memory) (w : BitVec 32), (x.write32 (a + 4) w).read32 a = x.read32 a := fun x w => by
    unfold Memory.read32 Memory.read16
    rw [Memory.read8_write32_out _ _ _ _ h0, Memory.read8_write32_out _ _ _ _ h1, Memory.read8_write32_out _ _ _ _ h2,
      Memory.read8_write32_out _ _ _ _ h3]
  unfold Memory.write64 Memory.read64
  rw [Memory.read32_write32_same _ _ _ (by simp [hw]), hr, Memory.read32_write32_same _ _ _ hw]
  exact append_halves 32 v

end Sys2Proof.Machine
end

