-- ==== Sys2Proof/Laws/State.lean ====
section
/-! SUPPORT. The small lemmas of the state record: what each named update leaves in each field, true by unfolding once,
so that no later proof unfolds a record update. -/

namespace Sys2Proof.Machine

/-! ## The register bank -/

theorem Regs.get_set (x : Regs) (r q : Reg) (v : Word) : (x.set r v).get q = if q = r then v else x.get q := by
  cases r <;> cases q <;> rfl

@[simp] theorem Regs.get_set_same (x : Regs) (r : Reg) (v : Word) : (x.set r v).get r = v := by
  cases r <;> rfl

@[simp] theorem Regs.get_set_ne (x : Regs) (r q : Reg) (v : Word) (h : q ≠ r) : (x.set r v).get q = x.get q := by
  rw [Regs.get_set, if_neg h]

/-- A bank is known by its reads. -/
theorem Regs.ext_get (x y : Regs) (h : ∀ r, x.get r = y.get r) : x = y := by
  cases x; cases y
  simp only [Regs.mk.injEq]
  exact ⟨h .r0, h .r1, h .r2, h .r3, h .r4, h .r5, h .r6, h .r7, h .sp, h .pc, h .flags⟩

/-- An index names the register with that number, and every index above 10 names none (R11, R14). -/
theorem Reg.ofIndex_eq_some (v : Word) (r : Reg) : Reg.ofIndex v = some r ↔ v.toNat = r.index := by
  constructor
  · intro h
    have := List.find?_some h
    simpa using (of_decide_eq_true this).symm
  · intro h
    unfold Reg.ofIndex
    rw [h]
    cases r <;> rfl

theorem Reg.ofIndex_eq_none (v : Word) : Reg.ofIndex v = none ↔ 10 < v.toNat := by
  constructor
  · intro h
    by_contra hle
    have hlt : v.toNat < 11 := by omega
    have : ∃ r : Reg, v.toNat = r.index := by
      interval_cases hv : v.toNat
      exacts [⟨.r0, rfl⟩, ⟨.r1, rfl⟩, ⟨.r2, rfl⟩, ⟨.r3, rfl⟩, ⟨.r4, rfl⟩, ⟨.r5, rfl⟩, ⟨.r6, rfl⟩, ⟨.r7, rfl⟩, ⟨.sp, rfl⟩,
        ⟨.pc, rfl⟩, ⟨.flags, rfl⟩]
    obtain ⟨r, hr⟩ := this
    rw [(Reg.ofIndex_eq_some v r).2 hr] at h
    cases h
  · intro h
    cases hr : Reg.ofIndex v with
    | none => rfl
    | some r =>
      have := (Reg.ofIndex_eq_some v r).1 hr
      cases r <;> simp [Reg.index, Config.params] at this <;> omega

/-! ## One register written -/

@[simp] theorem State.set_get_same (s : State) (r : Reg) (v : Word) : (s.set r v).get r = v := Regs.get_set_same ..

@[simp] theorem State.set_get_ne (s : State) (r q : Reg) (v : Word) (h : q ≠ r) : (s.set r v).get q = s.get q :=
  Regs.get_set_ne _ _ _ _ h

theorem State.set_get (s : State) (r q : Reg) (v : Word) : (s.set r v).get q = if q = r then v else s.get q :=
  Regs.get_set ..

@[simp] theorem State.set_runState (s : State) (r : Reg) (v : Word) : (s.set r v).runState = s.runState := rfl

@[simp] theorem State.set_bus (s : State) (r : Reg) (v : Word) : (s.set r v).bus = s.bus := rfl

@[simp] theorem State.set_mem (s : State) (r : Reg) (v : Word) : (s.set r v).mem = s.mem := rfl

@[simp] theorem State.set_report (s : State) (r : Reg) (v : Word) : (s.set r v).report = s.report := rfl

@[simp] theorem State.set_log (s : State) (r : Reg) (v : Word) : (s.set r v).log = s.log := rfl

/-! ## Transactions logged -/

theorem State.logged_eq_note (s : State) (t : Transaction) : s.logged t = s.note [t] := rfl

@[simp] theorem State.note_regs (s : State) (ts : List Transaction) : (s.note ts).regs = s.regs := rfl

@[simp] theorem State.note_get (s : State) (ts : List Transaction) (r : Reg) : (s.note ts).get r = s.get r := rfl

@[simp] theorem State.note_runState (s : State) (ts : List Transaction) : (s.note ts).runState = s.runState := rfl

@[simp] theorem State.note_bus (s : State) (ts : List Transaction) : (s.note ts).bus = s.bus := rfl

@[simp] theorem State.note_mem (s : State) (ts : List Transaction) : (s.note ts).mem = s.mem := rfl

@[simp] theorem State.note_report (s : State) (ts : List Transaction) : (s.note ts).report = s.report := rfl

@[simp] theorem State.note_log (s : State) (ts : List Transaction) : (s.note ts).log = s.log ++ ts := rfl

@[simp] theorem State.note_note (s : State) (ts us : List Transaction) : (s.note ts).note us = s.note (ts ++ us) := by
  simp [State.note]

@[simp] theorem State.note_nil (s : State) : s.note [] = s := by
  simp [State.note]

@[simp] theorem State.note_set (s : State) (ts : List Transaction) (r : Reg) (v : Word) :
    (s.note ts).set r v = (s.set r v).note ts := rfl

/-! ## The bus port on RAM64: one transaction logged; a read leaves the memory alone -/

@[simp] theorem busRead8_ram64 (a : Word) (s : State) :
    busRead8 Bus.ram64 a s = (s.mem.read8 a, s.note [.read8 a (s.mem.read8 a)]) := rfl

@[simp] theorem busRead16_ram64 (a : Word) (s : State) :
    busRead16 Bus.ram64 a s = (s.mem.read16 a, s.note [.read16 a (s.mem.read16 a)]) := rfl

@[simp] theorem busRead32_ram64 (a : Word) (s : State) :
    busRead32 Bus.ram64 a s = (s.mem.read32 a, s.note [.read32 a (s.mem.read32 a)]) := rfl

@[simp] theorem busRead64_ram64 (a : Word) (s : State) :
    busRead64 Bus.ram64 a s = (s.mem.read64 a, s.note [.read64 a (s.mem.read64 a)]) := rfl

@[simp] theorem busWrite8_ram64 (a : Word) (v : Byte) (s : State) :
    busWrite8 Bus.ram64 a v s = { s with mem := s.mem.write8 a v }.note [.write8 a v] := rfl

@[simp] theorem busWrite16_ram64 (a : Word) (v : BitVec 16) (s : State) :
    busWrite16 Bus.ram64 a v s = { s with mem := s.mem.write16 a v }.note [.write16 a v] := rfl

@[simp] theorem busWrite32_ram64 (a : Word) (v : BitVec 32) (s : State) :
    busWrite32 Bus.ram64 a v s = { s with mem := s.mem.write32 a v }.note [.write32 a v] := rfl

@[simp] theorem busWrite64_ram64 (a v : Word) (s : State) :
    busWrite64 Bus.ram64 a v s = { s with mem := s.mem.write64 a v }.note [.write64 a v] := rfl

/-! ## Flags -/

@[simp] theorem State.setFlag_get_ne (s : State) (f : Flag) (b : Bool) (r : Reg) (h : r ≠ .flags) :
    (s.setFlag f b).get r = s.get r := State.set_get_ne _ _ _ _ h

@[simp] theorem State.setFlag_get_flags (s : State) (f : Flag) (b : Bool) :
    (s.setFlag f b).get .flags = setFlagBit (s.get .flags) f b := rfl

@[simp] theorem State.setFlag_runState (s : State) (f : Flag) (b : Bool) : (s.setFlag f b).runState = s.runState := rfl

@[simp] theorem State.setFlag_bus (s : State) (f : Flag) (b : Bool) : (s.setFlag f b).bus = s.bus := rfl

@[simp] theorem State.setFlag_mem (s : State) (f : Flag) (b : Bool) : (s.setFlag f b).mem = s.mem := rfl

@[simp] theorem State.setFlag_report (s : State) (f : Flag) (b : Bool) : (s.setFlag f b).report = s.report := rfl

@[simp] theorem State.setFlag_log (s : State) (f : Flag) (b : Bool) : (s.setFlag f b).log = s.log := rfl

@[simp] theorem State.note_getFlag (s : State) (ts : List Transaction) (f : Flag) : (s.note ts).getFlag f = s.getFlag f := rfl

@[simp] theorem State.note_setFlag (s : State) (ts : List Transaction) (f : Flag) (b : Bool) :
    (s.note ts).setFlag f b = (s.setFlag f b).note ts := rfl

@[simp] theorem State.note_setCompareFlags (s : State) (ts : List Transaction) (z n : Bool) :
    (s.note ts).setCompareFlags z n = (s.setCompareFlags z n).note ts := rfl

/-! ## The end of a step -/

@[simp] theorem State.advance_get_pc (s : State) : s.advance.get .pc = s.get .pc + 2 * Config.params.slot := rfl

@[simp] theorem State.advance_get_ne (s : State) (r : Reg) (h : r ≠ .pc) : s.advance.get r = s.get r :=
  State.set_get_ne _ _ _ _ h

@[simp] theorem State.advance_runState (s : State) : s.advance.runState = s.runState := rfl

@[simp] theorem State.advance_bus (s : State) : s.advance.bus = s.bus := rfl

@[simp] theorem State.advance_mem (s : State) : s.advance.mem = s.mem := rfl

@[simp] theorem State.advance_report (s : State) : s.advance.report = s.report := rfl

@[simp] theorem State.advance_log (s : State) : s.advance.log = s.log := rfl

@[simp] theorem State.takeFailure_regs (s : State) (f : Failure) : (s.takeFailure f).regs = s.regs := rfl

@[simp] theorem State.takeFailure_get (s : State) (f : Failure) (r : Reg) : (s.takeFailure f).get r = s.get r := rfl

@[simp] theorem State.takeFailure_bus (s : State) (f : Failure) : (s.takeFailure f).bus = s.bus := rfl

@[simp] theorem State.takeFailure_mem (s : State) (f : Failure) : (s.takeFailure f).mem = s.mem := rfl

@[simp] theorem State.takeFailure_report (s : State) (f : Failure) : (s.takeFailure f).report = .failed f := rfl

@[simp] theorem State.takeFailure_log (s : State) (f : Failure) : (s.takeFailure f).log = s.log := rfl

@[simp] theorem State.takeMiss_mem (s : State) : s.takeMiss.mem = s.mem := rfl

@[simp] theorem State.takeMiss_bus (s : State) : s.takeMiss.bus = s.bus := rfl

@[simp] theorem State.takeMiss_log (s : State) : s.takeMiss.log = s.log := rfl

@[simp] theorem State.takeMiss_report (s : State) : s.takeMiss.report = .failed .halted := rfl

@[simp] theorem State.takeMiss_runState (s : State) : s.takeMiss.runState = .halted := rfl

/-! ## Stores to a location -/

@[simp] theorem State.store_runState (s : State) (l : Location) (v : Word) : (s.store l v).runState = s.runState := by
  cases l <;> rfl

@[simp] theorem State.store_bus (s : State) (l : Location) (v : Word) : (s.store l v).bus = s.bus := by
  cases l <;> rfl

@[simp] theorem State.store_report (s : State) (l : Location) (v : Word) : (s.store l v).report = s.report := by
  cases l <;> rfl

@[simp] theorem State.store_log (s : State) (l : Location) (v : Word) : (s.store l v).log = s.log := by
  cases l <;> rfl

theorem State.store_get (s : State) (l : Location) (v : Word) (r : Reg) :
    (s.store l v).get r = if l = .register r then v else s.get r := by
  cases l with
  | literal x => simp [State.store]
  | register q =>
    simp only [State.store, State.set_get, Location.register.injEq]
    by_cases h : r = q
    · simp [h]
    · rw [if_neg h, if_neg (Ne.symm h)]
  | memory a => simp [State.store]; rfl

theorem State.store_get_ne (s : State) (l : Location) (v : Word) (r : Reg) (h : l ≠ .register r) :
    (s.store l v).get r = s.get r := by
  rw [State.store_get, if_neg h]

theorem State.store_mem (s : State) (l : Location) (v : Word) (h : ∀ a, l ≠ .memory a) : (s.store l v).mem = s.mem := by
  cases l with
  | literal x => rfl
  | register q => rfl
  | memory a => exact absurd rfl (h a)

@[simp] theorem State.note_store (s : State) (ts : List Transaction) (l : Location) (v : Word) :
    (s.note ts).store l v = (s.store l v).note ts := by
  cases l <;> rfl

/-! ## The operands seen through a longer log -/

@[simp] theorem State.note_slot (s : State) (ts : List Transaction) (k : Nat) : (s.note ts).slot k = s.slot k := rfl

@[simp] theorem State.note_selector (s : State) (ts : List Transaction) (k : Operand) :
    (s.note ts).selector k = s.selector k := rfl

@[simp] theorem State.note_operandValue (s : State) (ts : List Transaction) (k : Operand) :
    (s.note ts).operandValue k = s.operandValue k := rfl

@[simp] theorem State.note_location (s : State) (ts : List Transaction) (k : Operand) :
    (s.note ts).location k = s.location k := rfl

@[simp] theorem State.note_valueAt (s : State) (ts : List Transaction) (l : Location) :
    (s.note ts).valueAt l = s.valueAt l := by
  cases l <;> rfl

@[simp] theorem State.note_slotTraffic (s : State) (ts : List Transaction) (k : Operand) :
    (s.note ts).slotTraffic k = s.slotTraffic k := rfl

@[simp] theorem State.note_readTraffic (s : State) (ts : List Transaction) (k : Operand) (l : Location) :
    (s.note ts).readTraffic k l = s.readTraffic k l := rfl

@[simp] theorem State.note_writeTraffic (s : State) (ts : List Transaction) (k : Operand) (l : Location) (v : Word) :
    (s.note ts).writeTraffic k l v = s.writeTraffic k l v := rfl

/-! ## The unit copied by a block instruction -/

@[simp] theorem State.copied_get (s : State) (u : UnitSize) (r : Reg) : (s.copied u).get r = s.get r := rfl

@[simp] theorem State.copied_runState (s : State) (u : UnitSize) : (s.copied u).runState = s.runState := rfl

@[simp] theorem State.copied_bus (s : State) (u : UnitSize) : (s.copied u).bus = s.bus := rfl

@[simp] theorem State.copied_report (s : State) (u : UnitSize) : (s.copied u).report = s.report := rfl

@[simp] theorem State.copied_log (s : State) (u : UnitSize) : (s.copied u).log = s.log := rfl

end Sys2Proof.Machine
end

