-- ==== Sys2Proof/Laws/Operands.lean ====
section
/-! SUPPORT. What the operand helpers can do, said once: the provers cite these instead of unfolding the resolver. -/

namespace Sys2Proof.Machine

/-- The two reads of an access: the selector, the operand value, and the log two transactions longer (R87). -/
theorem fetchOperand_eq (k : Operand) (s : State) :
    fetchOperand Bus.ram64 k s = ((s.selector k, s.operandValue k), s.note (s.slotTraffic k)) := by
  simp only [fetchOperand, busRead16_ram64, busRead64_ram64, State.note_note]
  rfl

@[simp] theorem locate_note (tag : Selector) (v : Word) (s : State) (ts : List Transaction) :
    locate tag v (s.note ts) = locate tag v s := rfl

/-- `op_read(k)`, whole: the value at the operand's location, or the failure of its resolution; only the log changes
(R88, R90). -/
theorem opRead_eq (k : Operand) (s : State) :
    opRead Bus.ram64 k s =
      match s.location k with
      | .ok l => .ok (s.valueAt l) (s.note (s.readTraffic k l))
      | .error f => .raised f (s.note (s.slotTraffic k)) := by
  simp only [opRead, fetchOperand_eq, resolveRead, locate_note]
  change (match s.location k with
      | .ok l => readLocation Bus.ram64 l (s.note (s.slotTraffic k))
      | .error f => .raised f (s.note (s.slotTraffic k))) = _
  cases s.location k with
  | error f => rfl
  | ok l =>
    cases l with
    | literal v => simp [readLocation, State.valueAt, State.readTraffic]
    | register r => simp [readLocation, State.valueAt, State.readTraffic]
    | memory a => simp [readLocation, State.valueAt, State.readTraffic]

/-- `op_write(k, data)`, whole: the store to the operand's location, or the failure of its resolution, or, for an
immediate operand, `InvalidAddressingMode(0)` (R89, R91). -/
theorem opWrite_eq (k : Operand) (data : Word) (s : State) :
    opWrite Bus.ram64 k data s =
      match s.location k with
      | .ok l =>
        if l.writable then .ok () ((s.store l data).note (s.writeTraffic k l data))
        else .raised (.invalidAddressingMode 0) (s.note (s.slotTraffic k))
      | .error f => .raised f (s.note (s.slotTraffic k)) := by
  simp only [opWrite, fetchOperand_eq, resolveWrite, locate_note]
  change (match s.location k with
      | .ok l => writeLocation Bus.ram64 l data (s.note (s.slotTraffic k))
      | .error f => .raised f (s.note (s.slotTraffic k))) = _
  cases s.location k with
  | error f => rfl
  | ok l =>
    cases l with
    | literal v => simp [writeLocation, Location.writable, Mode.tag, Config.params]
    | register r => simp [writeLocation, Location.writable, State.store, State.writeTraffic]
    | memory a => simp [writeLocation, Location.writable, State.store, State.writeTraffic, State.note]

theorem opRead_of_ok {k : Operand} {s : State} {l : Location} (h : s.location k = .ok l) :
    opRead Bus.ram64 k s = .ok (s.valueAt l) (s.note (s.readTraffic k l)) := by
  rw [opRead_eq, h]

theorem opRead_of_error {k : Operand} {s : State} {f : Failure} (h : s.location k = .error f) :
    opRead Bus.ram64 k s = .raised f (s.note (s.slotTraffic k)) := by
  rw [opRead_eq, h]

theorem opWrite_of_ok {k : Operand} {s : State} {l : Location} {d : Word} (h : s.location k = .ok l)
    (hw : l.writable = true) : opWrite Bus.ram64 k d s = .ok () ((s.store l d).note (s.writeTraffic k l d)) := by
  rw [opWrite_eq, h]; simp [hw]

theorem opWrite_of_literal {k : Operand} {s : State} {l : Location} {d : Word} (h : s.location k = .ok l)
    (hw : l.writable = false) : opWrite Bus.ram64 k d s = .raised (.invalidAddressingMode 0) (s.note (s.slotTraffic k)) := by
  rw [opWrite_eq, h]; simp [hw]

theorem opWrite_of_error {k : Operand} {s : State} {f : Failure} {d : Word} (h : s.location k = .error f) :
    opWrite Bus.ram64 k d s = .raised f (s.note (s.slotTraffic k)) := by
  rw [opWrite_eq, h]

/-- The resolver never raises `Halted` (R153: only `hlt` does). -/
theorem location_error_ne_halted {k : Operand} {s : State} {f : Failure} (h : s.location k = .error f) : f ≠ .halted := by
  rintro rfl
  simp only [State.location, locate, regIndex] at h
  split at h
  · cases h
  · cases h
  · split at h
    · cases h
    · next he => split at he; all_goals (cases he <;> cases h)
  · cases h
  · split at h
    · cases h
    · next he => split at he; all_goals (cases he <;> cases h)
  · cases h
  · split at h
    · cases h
    · next he => split at he; all_goals (cases he <;> cases h)

/-- The copy of a block instruction: the unit moved, two transactions logged (R140). -/
theorem copyUnit_eq (u : UnitSize) (s : State) : copyUnit Bus.ram64 u s = (s.copied u).note (s.copyTraffic u) := by
  cases u <;>
    simp [copyUnit, State.copied, State.copyTraffic, busRead8, busRead16, busRead32, busRead64, busWrite8, busWrite16,
      busWrite32, busWrite64, State.logged_eq_note] <;> rfl

/-- The copy keeps the memory's canonical form. -/
theorem copied_wf (u : UnitSize) (s : State) (h : s.mem.wf = true) : (s.copied u).mem.wf = true := by
  cases u <;> simp [State.copied, h]

/-- A store keeps the memory's canonical form. -/
theorem store_wf (s : State) (l : Location) (v : Word) (h : s.mem.wf = true) : (s.store l v).mem.wf = true := by
  cases l <;> simp [State.store, h]

/-- A store leaves every byte alone that is not one of the eight at its address. -/
theorem store_read8 (s : State) (l : Location) (v b : Word) (h : ∀ a, l = .memory a → inSpan a 8 b = false) :
    (s.store l v).mem.read8 b = s.mem.read8 b := by
  cases l with
  | literal x => rfl
  | register r => rfl
  | memory a => exact Memory.read8_write64_out _ _ _ _ (h a rfl)

/-! ## Sequencing -/

@[simp] theorem Result.andThen_ok {α β : Type} (v : α) (s : State) (k : α → State → Result β) :
    (Result.ok v s).andThen k = k v s := rfl

@[simp] theorem Result.andThen_raised {α β : Type} (f : Failure) (s : State) (k : α → State → Result β) :
    (Result.raised f s : Result α).andThen k = .raised f s := rfl

/-- The state a handler, or a part of one, leaves. -/
def Result.state {α : Type} : Result α → State
  | .ok _ s => s
  | .raised _ s => s

/-- What holds of a state whatever a part of a handler reads, logs, stores, copies or writes holds of the state the
whole leaves: the invariant of a sequence is the invariant of its parts. -/
theorem Result.state_andThen {α β : Type} (P : State → Prop) (r : Result α) (k : α → State → Result β)
    (hr : P r.state) (hk : ∀ v s, P s → P (k v s).state) : P (r.andThen k).state := by
  cases r with
  | ok v s => exact hk v s hr
  | raised f s => exact hr

/-- A property that logging and storing keep is kept by the operand helpers. -/
theorem opRead_keeps (P : State → Prop) (hn : ∀ s ts, P s → P (s.note ts)) (k : Operand) (s : State) (h : P s) :
    P (opRead Bus.ram64 k s).state := by
  rw [opRead_eq]
  cases s.location k <;> exact hn _ _ h

theorem opWrite_keeps (P : State → Prop) (hn : ∀ s ts, P s → P (s.note ts)) (hs : ∀ s l v, P s → P (s.store l v))
    (k : Operand) (d : Word) (s : State) (h : P s) : P (opWrite Bus.ram64 k d s).state := by
  rw [opWrite_eq]
  cases s.location k with
  | error f => exact hn _ _ h
  | ok l =>
    dsimp only
    split
    · exact hn _ _ (hs _ _ _ h)
    · exact hn _ _ h

/-- What every handler keeps: a property that logging, a store, a register write and a block copy all keep. -/
structure Kept (P : State → Prop) : Prop where
  note : ∀ s ts, P s → P (s.note ts)
  store : ∀ s l v, P s → P (s.store l v)
  set : ∀ s r v, P s → P (s.set r v)
  copied : ∀ s u, P s → P (s.copied u)

theorem updateHandler_keeps {P : State → Prop} (hP : Kept P) (f : Word → Word → Bool → Word) (s : State) (h : P s) :
    P (updateHandler Bus.ram64 f s).state :=
  Result.state_andThen P _ _ (opRead_keeps P hP.note _ _ h) fun _ _ h1 =>
    Result.state_andThen P _ _ (opRead_keeps P hP.note _ _ h1) fun _ _ h2 => opWrite_keeps P hP.note hP.store _ _ _ h2

theorem unaryHandler_keeps {P : State → Prop} (hP : Kept P) (f : Word → Word) (s : State) (h : P s) :
    P (unaryHandler Bus.ram64 f s).state :=
  Result.state_andThen P _ _ (opRead_keeps P hP.note _ _ h) fun _ _ h1 => opWrite_keeps P hP.note hP.store _ _ _ h1

theorem shiftHandler_keeps {P : State → Prop} (hP : Kept P) (f : Word → Word → Bool → Word × Bool) (s : State) (h : P s) :
    P (shiftHandler Bus.ram64 f s).state :=
  Result.state_andThen P _ _ (opRead_keeps P hP.note _ _ h) fun _ _ h1 =>
    Result.state_andThen P _ _ (opRead_keeps P hP.note _ _ h1) fun _ _ h2 =>
      Result.state_andThen P _ _ (opWrite_keeps P hP.note hP.store _ _ _ h2) fun _ _ h3 => hP.set _ _ _ h3

theorem compareHandler_keeps {P : State → Prop} (hP : Kept P) (z n : Word → Word → Bool) (s : State) (h : P s) :
    P (compareHandler Bus.ram64 z n s).state :=
  Result.state_andThen P _ _ (opRead_keeps P hP.note _ _ h) fun _ _ h1 =>
    Result.state_andThen P _ _ (opRead_keeps P hP.note _ _ h1) fun _ _ h2 => hP.set _ _ _ (hP.set _ _ _ h2)

theorem exchangeHandler_keeps {P : State → Prop} (hP : Kept P) (f : Word → Word → Word) (s : State) (h : P s) :
    P (exchangeHandler Bus.ram64 f s).state :=
  Result.state_andThen P _ _ (opRead_keeps P hP.note _ _ h) fun _ _ h1 =>
    Result.state_andThen P _ _ (opRead_keeps P hP.note _ _ h1) fun _ _ h2 =>
      Result.state_andThen P _ _ (opWrite_keeps P hP.note hP.store _ _ _ h2) fun _ _ h3 =>
        opWrite_keeps P hP.note hP.store _ _ _ h3

theorem compareExchangeHandler_keeps {P : State → Prop} (hP : Kept P) (s : State) (h : P s) :
    P (compareExchangeHandler Bus.ram64 s).state :=
  Result.state_andThen P _ _ (opRead_keeps P hP.note _ _ h) fun _ _ h1 =>
    Result.state_andThen P _ _ (opRead_keeps P hP.note _ _ h1) fun _ _ h2 => by
      split
      · exact opWrite_keeps P hP.note hP.store _ _ _ h2
      · exact h2

theorem blockHandler_keeps {P : State → Prop} (hP : Kept P) (u : UnitSize) (s : State) (h : P s) :
    P (blockHandler Bus.ram64 u s).state := by
  have hc : P (copyUnit Bus.ram64 u s) := by
    rw [copyUnit_eq]
    exact hP.note _ _ (hP.copied _ _ h)
  exact Result.state_andThen P _ _ (opRead_keeps P hP.note _ _ hc) fun _ _ h1 =>
    Result.state_andThen P _ _ (opRead_keeps P hP.note _ _ (hP.set _ _ _ h1)) fun _ _ h2 => hP.set _ _ _ h2

end Sys2Proof.Machine
end

