-- ==== Sys2Proof/Laws/Engine.lean ====
section
/-! SUPPORT. What an instruction and a step can do, said once. -/

namespace Sys2Proof.Machine

/-- Every instruction is its handler, on RAM64, run in the engine. -/
theorem exec_eq (i : Instr) (s : State) : exec i s = execute (handlerOf Bus.ram64 i) s := by
  cases i <;> rfl

theorem exec_eq_execOn (i : Instr) (s : State) : exec i s = execOn Bus.ram64 i s := exec_eq i s

/-- The host's step is the step on RAM64 (R42; log 1). -/
theorem step_eq_stepOn (s : State) : step s = stepOn Bus.ram64 s := by
  have h : exec = execOn Bus.ram64 := funext fun i => funext fun s => exec_eq i s
  simp only [step, stepOn, h]

/-- A handler run in the engine, with a bus, always answers a next state (R82): advanced, or with its failure taken. -/
theorem execute_eq (h : State → Result Unit) (s : State) (hb : s.bus = .bound) :
    execute h s =
      match h s with
      | .ok _ s' => .next { s'.advance with report := .ok }
      | .raised f s' => .next (s'.takeFailure f) := by
  simp only [execute, hb]
  cases h s <;> rfl

theorem execute_unbound (h : State → Result Unit) (s : State) (hb : s.bus = .unbound) : execute h s = .refused .noBus := by
  simp only [execute, hb]

/-- What an instruction that answers a next state did. -/
theorem exec_next {i : Instr} {s t : State} (h : exec i s = .next t) :
    s.bus = .bound ∧
      ((∃ s', handlerOf Bus.ram64 i s = .ok () s' ∧ t = { s'.advance with report := .ok }) ∨
        (∃ f s', handlerOf Bus.ram64 i s = .raised f s' ∧ t = s'.takeFailure f)) := by
  rw [exec_eq] at h
  cases hb : s.bus with
  | unbound => rw [execute_unbound _ _ hb] at h; cases h
  | bound =>
    rw [execute_eq _ _ hb] at h
    refine ⟨rfl, ?_⟩
    cases hh : handlerOf Bus.ram64 i s with
    | ok v s' => rw [hh] at h; exact .inl ⟨s', rfl, by cases h; rfl⟩
    | raised f s' => rw [hh] at h; exact .inr ⟨f, s', rfl, by cases h; rfl⟩

/-- With a bus, every instruction answers a next state. -/
theorem exec_bound (i : Instr) (s : State) (hb : s.bus = .bound) : ∃ t, exec i s = .next t := by
  rw [exec_eq, execute_eq _ _ hb]
  cases handlerOf Bus.ram64 i s with
  | ok v s' => exact ⟨_, rfl⟩
  | raised f s' => exact ⟨_, rfl⟩

/-- What every handler keeps. -/
theorem handlerOf_keeps {P : State → Prop} (hP : Kept P) (i : Instr) (s : State) (h : P s) : P (handlerOf Bus.ram64 i s).state := by
  cases i
  case nop => exact h
  case hlt => exact h
  case add | sub | adc | sbb | and | or | xor => exact updateHandler_keeps hP _ _ h
  case not | neg => exact unaryHandler_keeps hP _ _ h
  case shl | shr | sal | sar | rol | ror | rcl | rcr => exact shiftHandler_keeps hP _ _ h
  case cmp | test => exact compareHandler_keeps hP _ _ _ h
  case xchg | xadd => exact exchangeHandler_keeps hP _ _ h
  case cmpxchg | cmpxchg8b => exact compareExchangeHandler_keeps hP _ h
  case cmpsb | cmpsw | cmpsd | cmpsq => exact blockHandler_keeps hP _ _ h

/-- The fetch changes the log only (R81). -/
theorem fetched_eq (s : State) : s.fetched = s.note [.read32 (s.get .pc) s.key] := rfl

theorem notReady_eq_none (s : State) : s.notReady = none ↔ s.runState = .running ∧ s.bus = .bound := by
  unfold State.notReady
  cases s.runState <;> cases s.bus <;> simp

/-- A step that is not refused: a dispatch miss, or the instruction the key selects (R82). -/
theorem step_ready (s : State) (h : s.notReady = none) :
    step s =
      match lookup s.key with
      | none => .next s.fetched.takeMiss
      | some i => exec i s.fetched := by
  simp only [step, stepWith, h]
  rfl

theorem step_not_ready (s : State) (r : Refusal) (h : s.notReady = some r) : step s = .refused r := by
  simp only [step, stepWith, h]

/-- What a step that answers a next state did. -/
theorem step_next {s t : State} (h : step s = .next t) :
    s.runState = .running ∧ s.bus = .bound ∧
      ((lookup s.key = none ∧ t = s.fetched.takeMiss) ∨ (∃ i, lookup s.key = some i ∧ exec i s.fetched = .next t)) := by
  cases hr : s.notReady with
  | some r => rw [step_not_ready s r hr] at h; cases h
  | none =>
    obtain ⟨h1, h2⟩ := (notReady_eq_none s).1 hr
    rw [step_ready s hr] at h
    refine ⟨h1, h2, ?_⟩
    cases hl : lookup s.key with
    | none => rw [hl] at h; exact .inl ⟨rfl, by cases h; rfl⟩
    | some i => rw [hl] at h; exact .inr ⟨i, rfl, h⟩

end Sys2Proof.Machine
end

