-- ==== Sys2Proof/Laws/OnBus.lean ====
section
/-! SUPPORT. What the shared operations do on any bus: on two buses that answer alike they go alike (R42). -/

namespace Sys2Proof.Machine

/-- Two parts of a handler that end alike: with the same value or the same failure, in states that agree but for the bus. -/
inductive ResultsAlike {α : Type} (R : Memory → Memory → Prop) : Result α → Result α → Prop
  | ok (v : α) (s t : State) (h : s.alike R t) : ResultsAlike R (.ok v s) (.ok v t)
  | raised (f : Failure) (s t : State) (h : s.alike R t) : ResultsAlike R (.raised f s) (.raised f t)

variable {B C : Bus} {R : Memory → Memory → Prop}

/-- A register written with one value in both keeps the agreement. -/
theorem State.alike_set {s t : State} (h : s.alike R t) (r : Reg) (v : Word) : (s.set r v).alike R (t.set r v) := by
  obtain ⟨a, b, c, d, e, f⟩ := h
  exact ⟨by simp [State.set, a], b, c, d, e, f⟩

theorem State.alike_get {s t : State} (h : s.alike R t) (r : Reg) : s.get r = t.get r := by
  simp [State.get, h.1]

theorem State.alike_getFlag {s t : State} (h : s.alike R t) (r : Flag) : s.getFlag r = t.getFlag r := by
  simp [State.getFlag, State.alike_get h]

theorem State.alike_setFlag {s t : State} (h : s.alike R t) (r : Flag) (b : Bool) : (s.setFlag r b).alike R (t.setFlag r b) := by
  unfold State.setFlag; rw [State.alike_get h]; exact State.alike_set h _ _

/-- Parts that end alike, followed by parts that do. -/
theorem ResultsAlike.andThen {α β : Type} {x y : Result α} {k l : α → State → Result β} (h : ResultsAlike R x y)
    (hk : ∀ v s t, s.alike R t → ResultsAlike R (k v s) (l v t)) : ResultsAlike R (x.andThen k) (y.andThen l) := by
  cases h with
  | ok v s t h => exact hk v s t h
  | raised f s t h => exact .raised f s t h

/-- Each operation of the bus port: the same value read, the same transaction logged. -/
theorem busRead16_alike (hA : BusesAlike B C R) (a : Word) {s t : State} (h : s.alike R t) :
    (busRead16 B a s).1 = (busRead16 C a t).1 ∧ (busRead16 B a s).2.alike R (busRead16 C a t).2 := by
  obtain ⟨x, b, c, d, e, f⟩ := h
  have := hA.read16 a _ _ f
  simp only [busRead16]
  exact ⟨this.1, x, b, c, d, by simp [State.logged, e, this.1], this.2⟩

theorem busRead8_alike (hA : BusesAlike B C R) (a : Word) {s t : State} (h : s.alike R t) :
    (busRead8 B a s).1 = (busRead8 C a t).1 ∧ (busRead8 B a s).2.alike R (busRead8 C a t).2 := by
  obtain ⟨x, b, c, d, e, f⟩ := h
  have := hA.read8 a _ _ f
  simp only [busRead8]
  exact ⟨this.1, x, b, c, d, by simp [State.logged, e, this.1], this.2⟩

theorem busRead32_alike (hA : BusesAlike B C R) (a : Word) {s t : State} (h : s.alike R t) :
    (busRead32 B a s).1 = (busRead32 C a t).1 ∧ (busRead32 B a s).2.alike R (busRead32 C a t).2 := by
  obtain ⟨x, b, c, d, e, f⟩ := h
  have := hA.read32 a _ _ f
  simp only [busRead32]
  exact ⟨this.1, x, b, c, d, by simp [State.logged, e, this.1], this.2⟩

theorem busRead64_alike (hA : BusesAlike B C R) (a : Word) {s t : State} (h : s.alike R t) :
    (busRead64 B a s).1 = (busRead64 C a t).1 ∧ (busRead64 B a s).2.alike R (busRead64 C a t).2 := by
  obtain ⟨x, b, c, d, e, f⟩ := h
  have := hA.read64 a _ _ f
  simp only [busRead64]
  exact ⟨this.1, x, b, c, d, by simp [State.logged, e, this.1], this.2⟩

theorem busWrite8_alike (hA : BusesAlike B C R) (a) (v) {s t : State} (h : s.alike R t) :
    (busWrite8 B a v s).alike R (busWrite8 C a v t) := by
  obtain ⟨x, b, c, d, e, f⟩ := h
  exact ⟨x, b, c, d, by simp [busWrite8, State.logged, e], hA.write8 a v _ _ f⟩

theorem busWrite16_alike (hA : BusesAlike B C R) (a) (v) {s t : State} (h : s.alike R t) :
    (busWrite16 B a v s).alike R (busWrite16 C a v t) := by
  obtain ⟨x, b, c, d, e, f⟩ := h
  exact ⟨x, b, c, d, by simp [busWrite16, State.logged, e], hA.write16 a v _ _ f⟩

theorem busWrite32_alike (hA : BusesAlike B C R) (a) (v) {s t : State} (h : s.alike R t) :
    (busWrite32 B a v s).alike R (busWrite32 C a v t) := by
  obtain ⟨x, b, c, d, e, f⟩ := h
  exact ⟨x, b, c, d, by simp [busWrite32, State.logged, e], hA.write32 a v _ _ f⟩

theorem busWrite64_alike (hA : BusesAlike B C R) (a) (v) {s t : State} (h : s.alike R t) :
    (busWrite64 B a v s).alike R (busWrite64 C a v t) := by
  obtain ⟨x, b, c, d, e, f⟩ := h
  exact ⟨x, b, c, d, by simp [busWrite64, State.logged, e], hA.write64 a v _ _ f⟩

/-- The resolver looks at the registers only. -/
theorem locate_alike {s t : State} (h : s.alike R t) (tag v) : locate tag v s = locate tag v t := by
  unfold locate
  simp only [State.alike_get h]

theorem fetchOperand_alike (hA : BusesAlike B C R) (k) {s t : State} (h : s.alike R t) :
    (fetchOperand B k s).1 = (fetchOperand C k t).1 ∧ (fetchOperand B k s).2.alike R (fetchOperand C k t).2 := by
  have e1 : s.slot 2 = t.slot 2 := by simp [State.slot, State.alike_get h]
  have h1 := busRead16_alike hA (t.slot 2) h
  have e2 : (busRead16 B (t.slot 2) s).2.slot k.number = (busRead16 C (t.slot 2) t).2.slot k.number := by
    unfold State.slot at h1 ⊢; rw [State.alike_get h1.2]
  have h2 := busRead64_alike hA ((busRead16 C (t.slot 2) t).2.slot k.number) h1.2
  simp only [fetchOperand, e1, e2]
  exact ⟨by rw [h1.1, h2.1], h2.2⟩

/-- `op_read(k)` on alike buses. -/
theorem opRead_alike (hA : BusesAlike B C R) (k) {s t : State} (h : s.alike R t) :
    ResultsAlike R (opRead B k s) (opRead C k t) := by
  have h1 := fetchOperand_alike hA k h
  simp only [opRead, resolveRead, h1.1, locate_alike h1.2]
  cases locate (fetchOperand C k t).1.1 (fetchOperand C k t).1.2 (fetchOperand C k t).2 with
  | error f => exact .raised _ _ _ h1.2
  | ok l =>
    cases l with
    | literal v => exact .ok _ _ _ h1.2
    | register r => simp only [readLocation, State.alike_get h1.2]; exact .ok _ _ _ h1.2
    | memory a =>
      have h2 := busRead64_alike hA a h1.2
      simp only [readLocation, h2.1]
      exact .ok _ _ _ h2.2

/-- `op_write(k, data)` on alike buses. -/
theorem opWrite_alike (hA : BusesAlike B C R) (k d) {s t : State} (h : s.alike R t) :
    ResultsAlike R (opWrite B k d s) (opWrite C k d t) := by
  have h1 := fetchOperand_alike hA k h
  simp only [opWrite, resolveWrite, h1.1, locate_alike h1.2]
  cases locate (fetchOperand C k t).1.1 (fetchOperand C k t).1.2 (fetchOperand C k t).2 with
  | error f => exact .raised _ _ _ h1.2
  | ok l =>
    cases l with
    | literal v => exact .raised _ _ _ h1.2
    | register r => exact .ok _ _ _ (State.alike_set h1.2 _ _)
    | memory a => exact .ok _ _ _ (busWrite64_alike hA a d h1.2)

theorem copyUnit_alike (hA : BusesAlike B C R) (u) {s t : State} (h : s.alike R t) :
    (copyUnit B u s).alike R (copyUnit C u t) := by
  cases u
  · have h1 := busRead8_alike hA (t.get .r7) h
    simp only [copyUnit, State.alike_get h, h1.1, State.alike_get h1.2]; exact busWrite8_alike hA _ _ h1.2
  · have h1 := busRead16_alike hA (t.get .r7) h
    simp only [copyUnit, State.alike_get h, h1.1, State.alike_get h1.2]; exact busWrite16_alike hA _ _ h1.2
  · have h1 := busRead32_alike hA (t.get .r7) h
    simp only [copyUnit, State.alike_get h, h1.1, State.alike_get h1.2]; exact busWrite32_alike hA _ _ h1.2
  · have h1 := busRead64_alike hA (t.get .r7) h
    simp only [copyUnit, State.alike_get h, h1.1, State.alike_get h1.2]; exact busWrite64_alike hA _ _ h1.2

/-- Every handler on alike buses. -/
theorem handlerOf_alike (hA : BusesAlike B C R) (i) {s t : State} (h : s.alike R t) :
    ResultsAlike R (handlerOf B i s) (handlerOf C i t) := by
  have upd : ∀ f, ResultsAlike R (updateHandler B f s) (updateHandler C f t) := fun f =>
    ResultsAlike.andThen (opRead_alike hA _ h) fun a s t h => ResultsAlike.andThen (opRead_alike hA _ h) fun b s t h => by
      rw [State.alike_getFlag h]; exact opWrite_alike hA _ _ h
  have un : ∀ f, ResultsAlike R (unaryHandler B f s) (unaryHandler C f t) := fun f =>
    ResultsAlike.andThen (opRead_alike hA _ h) fun a s t h => opWrite_alike hA _ _ h
  have sh : ∀ f, ResultsAlike R (shiftHandler B f s) (shiftHandler C f t) := fun f =>
    ResultsAlike.andThen (opRead_alike hA _ h) fun a s t h => ResultsAlike.andThen (opRead_alike hA _ h) fun b s t h => by
      rw [State.alike_getFlag h]; exact ResultsAlike.andThen (opWrite_alike hA _ _ h) fun _ s t h => .ok _ _ _ (State.alike_setFlag h _ _)
  have cm : ∀ z n, ResultsAlike R (compareHandler B z n s) (compareHandler C z n t) := fun z n =>
    ResultsAlike.andThen (opRead_alike hA _ h) fun a s t h => ResultsAlike.andThen (opRead_alike hA _ h) fun b s t h =>
      .ok _ _ _ (State.alike_setFlag (State.alike_setFlag h _ _) _ _)
  have ex : ∀ f, ResultsAlike R (exchangeHandler B f s) (exchangeHandler C f t) := fun f =>
    ResultsAlike.andThen (opRead_alike hA _ h) fun a s t h => ResultsAlike.andThen (opRead_alike hA _ h) fun b s t h =>
      ResultsAlike.andThen (opWrite_alike hA _ _ h) fun _ s t h => opWrite_alike hA _ _ h
  have cx : ResultsAlike R (compareExchangeHandler B s) (compareExchangeHandler C t) :=
    ResultsAlike.andThen (opRead_alike hA _ h) fun a s t h => ResultsAlike.andThen (opRead_alike hA _ h) fun b s t h => by
      rw [State.alike_get h]
      split
      · exact opWrite_alike hA _ _ h
      · exact .ok _ _ _ h
  have bl : ∀ u, ResultsAlike R (blockHandler B u s) (blockHandler C u t) := fun u =>
    ResultsAlike.andThen (opRead_alike hA _ (copyUnit_alike hA u h)) fun a s t h => by
      rw [State.alike_get h]
      exact ResultsAlike.andThen (opRead_alike hA _ (State.alike_set h _ _)) fun b s t h => by
        rw [State.alike_get h]; exact .ok _ _ _ (State.alike_set h _ _)
  cases i
  case nop => exact .ok _ _ _ h
  case hlt => exact .raised _ _ _ h
  all_goals first | exact upd _ | exact un _ | exact sh _ | exact cm _ _ | exact ex _ | exact cx | exact bl _

end Sys2Proof.Machine
end

