-- ==== Sys2Proof/Laws/PerInstr.lean ====
section
/-! SUPPORT. The families of laws made per instruction: one statement about an instruction as syntax, and one lemma for
each constructor of Instr. -/

namespace Sys2Proof.Laws

/-- The key of an instruction has its fields where R61 puts them: the opcode of its mnemonic, seven zero bits, `sel3` = 0,
and the tags of its two selectors, at any value of the selectors. -/
def KeyLayout.Statement (i : Instr) : Prop :=
  (encode i).opcode = i.opcode ∧ (encode i).reserved = 0 ∧ (encode i).sel3 = 0 ∧
  (encode i).sel2 = i.selectors.2.tag ∧ (encode i).sel1 = i.selectors.1.tag

/-- Any five fields put together in the order of R61 are found again at its bit positions. -/
theorem fields_of_append (op : BitVec 16) (z : BitVec 7) (s3 s2 s1 : Selector) :
    Key.opcode (op ++ z ++ s3 ++ s2 ++ s1) = op ∧ Key.reserved (op ++ z ++ s3 ++ s2 ++ s1) = z ∧
    Key.sel3 (op ++ z ++ s3 ++ s2 ++ s1) = s3 ∧ Key.sel2 (op ++ z ++ s3 ++ s2 ++ s1) = s2 ∧
    Key.sel1 (op ++ z ++ s3 ++ s2 ++ s1) = s1 := by
  refine ⟨?_, ?_, ?_, ?_, ?_⟩ <;> apply BitVec.eq_of_getLsbD_eq <;> intro i hi <;>
    simp only [Key.opcode, Key.reserved, Key.sel3, Key.sel2, Key.sel1, BitVec.getLsbD_extractLsb', BitVec.getLsbD_append, hi,
      decide_true, Bool.true_and] <;>
    split_ifs <;> first | omega | (congr 1; omega)

theorem KeyLayout.nop : KeyLayout.Statement .nop := fields_of_append ..

theorem KeyLayout.hlt : KeyLayout.Statement .hlt := fields_of_append ..

theorem KeyLayout.add (a b : Mode) : KeyLayout.Statement (.add a b) := fields_of_append ..

theorem KeyLayout.sub (a b : Mode) : KeyLayout.Statement (.sub a b) := fields_of_append ..

theorem KeyLayout.adc (a b : Mode) : KeyLayout.Statement (.adc a b) := fields_of_append ..

theorem KeyLayout.sbb (a b : Mode) : KeyLayout.Statement (.sbb a b) := fields_of_append ..

theorem KeyLayout.and (a b : Mode) : KeyLayout.Statement (.and a b) := fields_of_append ..

theorem KeyLayout.or (a b : Mode) : KeyLayout.Statement (.or a b) := fields_of_append ..

theorem KeyLayout.xor (a b : Mode) : KeyLayout.Statement (.xor a b) := fields_of_append ..

theorem KeyLayout.not (a : Mode) : KeyLayout.Statement (.not a) := fields_of_append ..

theorem KeyLayout.neg (a : Mode) : KeyLayout.Statement (.neg a) := fields_of_append ..

theorem KeyLayout.shl (a b : Mode) : KeyLayout.Statement (.shl a b) := fields_of_append ..

theorem KeyLayout.shr (a b : Mode) : KeyLayout.Statement (.shr a b) := fields_of_append ..

theorem KeyLayout.sal (a b : Mode) : KeyLayout.Statement (.sal a b) := fields_of_append ..

theorem KeyLayout.sar (a b : Mode) : KeyLayout.Statement (.sar a b) := fields_of_append ..

theorem KeyLayout.rol (a b : Mode) : KeyLayout.Statement (.rol a b) := fields_of_append ..

theorem KeyLayout.ror (a b : Mode) : KeyLayout.Statement (.ror a b) := fields_of_append ..

theorem KeyLayout.rcl (a b : Mode) : KeyLayout.Statement (.rcl a b) := fields_of_append ..

theorem KeyLayout.rcr (a b : Mode) : KeyLayout.Statement (.rcr a b) := fields_of_append ..

theorem KeyLayout.cmp (a b : Mode) : KeyLayout.Statement (.cmp a b) := fields_of_append ..

theorem KeyLayout.test (a b : Mode) : KeyLayout.Statement (.test a b) := fields_of_append ..

theorem KeyLayout.xchg (a b : Mode) : KeyLayout.Statement (.xchg a b) := fields_of_append ..

theorem KeyLayout.xadd (a b : Mode) : KeyLayout.Statement (.xadd a b) := fields_of_append ..

theorem KeyLayout.cmpxchg (a b : Mode) : KeyLayout.Statement (.cmpxchg a b) := fields_of_append ..

theorem KeyLayout.cmpxchg8b (a b : Mode) : KeyLayout.Statement (.cmpxchg8b a b) := fields_of_append ..

theorem KeyLayout.cmpsb (a b : Mode) : KeyLayout.Statement (.cmpsb a b) := fields_of_append ..

theorem KeyLayout.cmpsw (a b : Mode) : KeyLayout.Statement (.cmpsw a b) := fields_of_append ..

theorem KeyLayout.cmpsd (a b : Mode) : KeyLayout.Statement (.cmpsd a b) := fields_of_append ..

theorem KeyLayout.cmpsq (a b : Mode) : KeyLayout.Statement (.cmpsq a b) := fields_of_append ..

end Sys2Proof.Laws
end

