-- ==== Sys2Proof/Tests/Slice0.lean ====
section
/-! SUPPORT. The model's own tests: one step each on a small state, the expected values taken from the worked examples of
the rules and from 95_test_vectors.md; keys written out from R61, R66 and R67; a refused term for each check of
`wellFormed`; and, for the statements of Obligations.lean that have hypotheses, a state that meets them. -/

namespace Sys2Proof.Tests

open Sys2Proof.Machine

/-! ## Small states -/

/-- A memory from 64-bit slots. -/
def slots : List (Word × Word) → Memory
  | [] => []
  | (a, v) :: rest => (slots rest).write64 a v

/-- A running machine with a bus. -/
def machine (x : Regs) (m : List (Word × Word)) : State :=
  { State.reset with regs := x, runState := .running, bus := .bound, mem := slots m }

/-- The setting of the rules' examples (40_execution_engine.md section 6): the instruction at 0x100. -/
def at100 (key slot1 slot2 : Word) (x : Regs) (m : List (Word × Word)) : State :=
  machine { x with pc := 0x100 } ((0x100, key) :: (0x108, slot1) :: (0x110, slot2) :: m)

/-- Whether an outcome is a next state. -/
def completes (o : Host.Outcome State Fault Refusal) : Bool :=
  match o with
  | .next _ => true
  | .fault _ => false
  | .refused _ => false

/-- The next state of an outcome; the reset state if it has none. -/
def after (o : Host.Outcome State Fault Refusal) : State :=
  match o with
  | .next t => t
  | .fault _ => State.reset
  | .refused _ => State.reset

/-- An outcome that completes is a next state. -/
theorem next_of_completes (o : Host.Outcome State Fault Refusal) (h : completes o = true) : o = .next (after o) := by
  cases o <;> first | rfl | cases h

/-! ## Well-formedness: each menu accepts its own and refuses a term outside it (R67) -/

theorem test_wellFormed_accepts :
    Instr.nop.wellFormed = true ∧ (Instr.add .rd .imm).wellFormed = true ∧ (Instr.xchg .dir .rd).wellFormed = true ∧
    (Instr.neg .ri).wellFormed = true := by decide

theorem test_wellFormed_M6_refuses :
    (Instr.add .imm .imm).wellFormed = false ∧ (Instr.cmp .ri .rd).wellFormed = false ∧
    (Instr.shl .idx .imm).wellFormed = false ∧ (Instr.cmpsq .dir .dir).wellFormed = false := by decide

theorem test_wellFormed_M3_refuses :
    (Instr.xchg .rd .imm).wellFormed = false ∧ (Instr.xadd .ri .imm).wellFormed = false := by decide

theorem test_wellFormed_M1_refuses : (Instr.not .imm).wellFormed = false ∧ (Instr.neg .bix).wellFormed = false := by decide

/-! ## Keys written out from the encoding: opcode in bits 31:16, sel2 in bits 5:3, sel1 in bits 2:0 (R61, R66, R67) -/

theorem test_decode_control : decode 0x00000000 = .ok .nop ∧ decode 0x00010000 = .ok .hlt := by decide

theorem test_decode_arithmetic :
    decode 0x00020009 = .ok (.add .rd .rd) ∧ decode 0x0003000A = .ok (.sub .dir .rd) ∧
    decode 0x00040011 = .ok (.adc .rd .dir) ∧ decode 0x00050001 = .ok (.sbb .rd .imm) := by decide

theorem test_decode_bitwise :
    decode 0x00060003 = .ok (.and .ri .imm) ∧ decode 0x00070002 = .ok (.or .dir .imm) ∧
    decode 0x00080009 = .ok (.xor .rd .rd) ∧ decode 0x00090003 = .ok (.not .ri) ∧
    decode 0x000A0002 = .ok (.neg .dir) := by decide

theorem test_decode_shift :
    decode 0x000B0001 = .ok (.shl .rd .imm) ∧ decode 0x000C0011 = .ok (.shr .rd .dir) ∧
    decode 0x000D000A = .ok (.sal .dir .rd) ∧ decode 0x000E0003 = .ok (.sar .ri .imm) := by decide

theorem test_decode_rotate :
    decode 0x000F0002 = .ok (.rol .dir .imm) ∧ decode 0x00100009 = .ok (.ror .rd .rd) ∧
    decode 0x0011000A = .ok (.rcl .dir .rd) ∧ decode 0x00120011 = .ok (.rcr .rd .dir) := by decide

theorem test_decode_compare : decode 0x00130001 = .ok (.cmp .rd .imm) ∧ decode 0x00140011 = .ok (.test .rd .dir) := by decide

theorem test_decode_exchange :
    decode 0x0015000A = .ok (.xchg .dir .rd) ∧ decode 0x00160009 = .ok (.xadd .rd .rd) ∧
    decode 0x00170003 = .ok (.cmpxchg .ri .imm) ∧ decode 0x00180011 = .ok (.cmpxchg8b .rd .dir) := by decide

theorem test_decode_block :
    decode 0x00190001 = .ok (.cmpsb .rd .imm) ∧ decode 0x001A000A = .ok (.cmpsw .dir .rd) ∧
    decode 0x001B0002 = .ok (.cmpsd .dir .imm) ∧ decode 0x001C0009 = .ok (.cmpsq .rd .rd) := by decide

/-- Words that are no key (R69, R70, R71): each reason once. -/
theorem test_decode_rejects :
    decode 0x00020000 = .error .notInMenu ∧ decode 0x00000001 = .error .notInMenu ∧
    decode 0x00020201 = .error .reservedBitsSet ∧ decode 0x00020041 = .error .thirdSelectorSet ∧
    decode 0x00020006 = .error .noSuchMode ∧ decode 0x001D0001 = .error .unassignedOpcode ∧
    decode 0xFFFFFFFF = .error .reservedBitsSet := by decide

theorem test_decode_truncated : decodeBytes [0x01, 0x00, 0x02] = .error .truncated := by decide

theorem test_decodeTableWord : decodeTableWord 32 0x00020001 = some (.add .rd .imm) ∧ decodeTableWord 32 0x00020000 = none := by
  decide

/-- The instruction placed by `withFetchWord` is the one that the step runs first after reset. -/
theorem test_withFetchWord :
    (after (step (State.reset.withFetchWord 32 0x00010000))).runState = .halted ∧
    (after (step (State.reset.withFetchWord 32 0x00130001))).get .pc = 0x10 := by decide

/-! ## One step of each instruction: the worked examples of the rules -/

/-- R110 -/
theorem test_nop :
    after (step (at100 0x00000000 7 9 Regs.zero [])) =
      { at100 0x00000000 7 9 Regs.zero [] with
        regs := { Regs.zero with pc := 0x110 }, report := .ok, log := [.read32 0x100 0] } := by decide

/-- R111 -/
theorem test_hlt :
    (after (step (at100 0x00010000 7 9 Regs.zero []))).runState = .halted ∧
    (after (step (at100 0x00010000 7 9 Regs.zero []))).regs = { Regs.zero with pc := 0x100 } := by decide

/-- R112: the wrap, no flag, and the bus log. -/
theorem test_add :
    (after (step (at100 0x00020001 0 1 { Regs.zero with r0 := 0xFFFFFFFFFFFFFFFF } []))).regs =
      { Regs.zero with pc := 0x110 } ∧
    (after (step (at100 0x00020001 0 1 { Regs.zero with r0 := 0xFFFFFFFFFFFFFFFF } []))).log =
      [.read32 0x100 0x00020001, .read16 0x110 1, .read64 0x108 0, .read16 0x110 1, .read64 0x110 1, .read16 0x110 1,
        .read64 0x108 0] := by decide

/-- R113 -/
theorem test_sub :
    (after (step (at100 0x00030001 1 1 Regs.zero []))).regs =
      { Regs.zero with r1 := 0xFFFFFFFFFFFFFFFF, pc := 0x110 } := by decide

/-- R114 -/
theorem test_adc :
    (after (step (at100 0x00040001 0 1 { Regs.zero with r0 := 1, flags := 1 } []))).regs =
      { Regs.zero with r0 := 3, flags := 1, pc := 0x110 } := by decide

/-- R115 -/
theorem test_sbb :
    (after (step (at100 0x00050001 0 1 { Regs.zero with r0 := 5, flags := 1 } []))).regs =
      { Regs.zero with r0 := 3, flags := 1, pc := 0x110 } := by decide

/-- R116 -/
theorem test_and :
    (after (step (at100 0x00060001 0 0xFF01 { Regs.zero with r0 := 0x1234 } []))).get .r0 = 0x1200 := by decide

/-- R117 -/
theorem test_or :
    (after (step (at100 0x00070001 0 0x0E01 { Regs.zero with r0 := 0x1000 } []))).get .r0 = 0x1E01 := by decide

/-- R118: a bit of operand 2 that is set in operand 1 is cleared. -/
theorem test_xor :
    (after (step (at100 0x00080001 0 0xFF01 { Regs.zero with r0 := 0x0F01 } []))).get .r0 = 0xF000 := by decide

/-- R119 -/
theorem test_not :
    (after (step (at100 0x00090001 0 1 Regs.zero []))).regs =
      { Regs.zero with r0 := 0xFFFFFFFFFFFFFFFF, pc := 0x110 } := by decide

/-- R120: 1, and the most negative value. -/
theorem test_neg :
    (after (step (at100 0x000A0001 0 1 { Regs.zero with r0 := 1 } []))).get .r0 = 0xFFFFFFFFFFFFFFFF ∧
    (after (step (at100 0x000A0001 0 1 { Regs.zero with r0 := 0x8000000000000000 } []))).get .r0 = 0x8000000000000000 := by
  decide

/-- R122: the document's own example. -/
theorem test_shl :
    (after (step (at100 0x000B0001 0 1 { Regs.zero with r0 := 0x8000000000000000 } []))).regs =
      { Regs.zero with flags := 1, pc := 0x110 } := by decide

/-- R123 -/
theorem test_shr :
    (after (step (at100 0x000C0001 0 1 { Regs.zero with r0 := 3 } []))).regs =
      { Regs.zero with r0 := 1, flags := 1, pc := 0x110 } := by decide

/-- R124 -/
theorem test_sal :
    (after (step (at100 0x000D0001 0 1 { Regs.zero with r0 := 0x4000000000000001 } []))).regs =
      { Regs.zero with r0 := 0x8000000000000002, pc := 0x110 } := by decide

/-- R125 -/
theorem test_sar :
    (after (step (at100 0x000E0001 0 1 { Regs.zero with r0 := 0x8000000000000001 } []))).regs =
      { Regs.zero with r0 := 0xC000000000000000, flags := 1, pc := 0x110 } := by decide

/-- R126 -/
theorem test_rol :
    (after (step (at100 0x000F0001 0 1 { Regs.zero with r0 := 0x8000000000000001 } []))).regs =
      { Regs.zero with r0 := 3, flags := 1, pc := 0x110 } := by decide

/-- R127 -/
theorem test_ror :
    (after (step (at100 0x00100001 0 1 { Regs.zero with r0 := 1 } []))).regs =
      { Regs.zero with r0 := 0x8000000000000000, flags := 1, pc := 0x110 } := by decide

/-- R128: the carry enters at bit 0. -/
theorem test_rcl :
    (after (step (at100 0x00110001 0 1 { Regs.zero with flags := 1 } []))).regs = { Regs.zero with r0 := 1, pc := 0x110 } := by
  decide

/-- R129: the carry enters at bit 63. -/
theorem test_rcr :
    (after (step (at100 0x00120001 0 1 { Regs.zero with flags := 1 } []))).regs =
      { Regs.zero with r0 := 0x8000000000000000, pc := 0x110 } := by decide

/-- R130: `Z` cleared and `N` set; unsigned, so the all-ones word is not below 1. -/
theorem test_cmp :
    (after (step (at100 0x00130001 0 1 { Regs.zero with flags := 2 } []))).get .flags = 0x80 ∧
    (after (step (at100 0x00130001 0 1 { Regs.zero with r0 := 0xFFFFFFFFFFFFFFFF, flags := 0x82 } []))).get .flags = 0 := by
  decide

/-- R131: `Z` and `N` both set; both cleared. -/
theorem test_test :
    (after (step (at100 0x00140001 0 1 Regs.zero []))).get .flags = 0x82 ∧
    (after (step (at100 0x00140001 0 1 { Regs.zero with r0 := 3, flags := 0x82 } []))).get .flags = 0 := by decide

/-- R132, example 1. -/
theorem test_xchg :
    (after (step (at100 0x00150011 0 0x211 { Regs.zero with r0 := 1 } [(0x211, 2)]))).get .r0 = 2 ∧
    (after (step (at100 0x00150011 0 0x211 { Regs.zero with r0 := 1 } [(0x211, 2)]))).mem.read64 0x211 = 1 := by decide

/-- R132, example 2: operand 2 is `pc`. -/
theorem test_xchg_pc :
    (after (step (at100 0x00150009 0 9 { Regs.zero with r0 := 0x500 } []))).regs =
      { Regs.zero with r0 := 0x100, pc := 0x510 } := by decide

/-- R133 -/
theorem test_xadd :
    (after (step (at100 0x00160011 0 0x211 { Regs.zero with r0 := 1 } [(0x211, 2)]))).get .r0 = 3 ∧
    (after (step (at100 0x00160011 0 0x211 { Regs.zero with r0 := 1 } [(0x211, 2)]))).mem.read64 0x211 = 1 := by decide

/-- R133: both operands `pc`; the second write is resolved at the new `pc` and fails there. -/
theorem test_xadd_pc :
    (after (step (at100 0x00160009 9 9 Regs.zero []))).report = .failed (.invalidAddressingMode 0) ∧
    (after (step (at100 0x00160009 9 9 Regs.zero []))).get .pc = 0x200 := by decide

/-- R134: equal, and not equal. -/
theorem test_cmpxchg :
    (after (step (at100 0x00170001 1 1 { Regs.zero with r0 := 7, r1 := 7 } []))).get .r1 = 1 ∧
    (after (step (at100 0x00170001 1 1 { Regs.zero with r0 := 7, r1 := 8 } []))).regs =
      { Regs.zero with r0 := 7, r1 := 8, pc := 0x110 } := by decide

/-- R135 -/
theorem test_cmpxchg8b :
    (after (step (at100 0x00180001 1 1 { Regs.zero with r0 := 7, r1 := 7 } []))).get .r1 = 1 := by decide

/-- The setting of the four examples of 47_block_copy.md. -/
def blockExample (key n : Word) : State :=
  at100 key 2 1 { Regs.zero with r2 := n, r6 := 0x400, r7 := 0x300 }
    [(0x300, 0x1122334455667788), (0x400, 0xFFFFFFFFFFFFFFFF)]

/-- R136 -/
theorem test_cmpsb :
    (after (step (blockExample 0x00190001 1))).mem.read64 0x400 = 0xFFFFFFFFFFFFFF88 ∧
    (after (step (blockExample 0x00190001 1))).regs =
      { Regs.zero with r2 := 1, r6 := 0x401, r7 := 0x301, pc := 0x110 } := by decide

/-- R137 -/
theorem test_cmpsw :
    (after (step (blockExample 0x001A0001 2))).mem.read64 0x400 = 0xFFFFFFFFFFFF7788 ∧
    (after (step (blockExample 0x001A0001 2))).get .r6 = 0x402 := by decide

/-- R138 -/
theorem test_cmpsd :
    (after (step (blockExample 0x001B0001 4))).mem.read64 0x400 = 0xFFFFFFFF55667788 ∧
    (after (step (blockExample 0x001B0001 4))).get .r6 = 0x404 := by decide

/-- R139 -/
theorem test_cmpsq :
    (after (step (blockExample 0x001C0001 8))).mem.read64 0x400 = 0x1122334455667788 ∧
    (after (step (blockExample 0x001C0001 8))).get .r6 = 0x408 := by decide

/-! ## Failures, interrupts, memory -/

/-- R158: the tag is checked before the index. -/
theorem test_failure_order :
    (after (step (at100 0x00020001 99 7 Regs.zero []))).report = .failed (.invalidAddressingMode 7) := by decide

/-- R155: the index is compared in all 64 bits. -/
theorem test_index :
    (after (step (at100 0x00020001 0x100000001 1 Regs.zero []))).report =
      .failed (.registerIndexOutOfRange 0x100000001) := by decide

/-- The setting of the example of R165. -/
def irqExample (flags : Word) : State :=
  machine { Regs.zero with sp := 0x1000, pc := 0x120, flags := flags } [(0xFFFF0018, 0x4000)]

/-- R165, the example. -/
theorem test_irq :
    (after (irq 0x18 (irqExample 0x96))).regs = { Regs.zero with sp := 0xFF0, pc := 0x4000, flags := 0x86 } ∧
    (after (irq 0x18 (irqExample 0x96))).log =
      [.write64 0xFF8 0x120, .write64 0xFF0 0x96, .read64 0xFFFF0018 0x4000] ∧
    after (irq 0x18 (irqExample 0x92)) = irqExample 0x92 := by decide

/-- The setting of the example of R166. -/
def nmiExample : State := machine { Regs.zero with pc := 0x120, flags := 0x12 } [(0xFFFF8008, 0x5000)]

/-- R166, the example: the stack wraps below address 0. -/
theorem test_nmi :
    (after (nmi 8 nmiExample)).regs = { Regs.zero with sp := 0xFFFFFFFFFFFFFFF0, pc := 0x5000, flags := 0x16 } ∧
    (after (nmi 8 nmiExample)).mem.read64 0xFFFFFFFFFFFFFFF8 = 0x120 := by decide

/-- V124: an access at the top of the address space wraps. -/
theorem test_memory_wraps :
    (Memory.write64 [] 0xFFFFFFFFFFFFFFFC 0x8877665544332211).read32 0 = 0x88776655 ∧
    (Memory.write64 [] 0xFFFFFFFFFFFFFFFC 0x8877665544332211).wf = true := by decide

/-- Writing what an unlisted address reads as removes the entry. -/
theorem test_memory_canonical : (Memory.write64 (Memory.write64 [] 0x10 0x55) 0x10 0) = [] := by decide

/-! ## Another bus (R42) -/

/-- A bus with a state of its own and reads with a side effect: each 64-bit read answers how many there were before. Every
key is `add`, register by immediate. -/
def countingBus : BusPort Nat where
  read8 _ n := (0, n)
  read16 _ n := (1, n)
  read32 _ n := (0x00020001, n)
  read64 _ n := (BitVec.ofNat 64 n, n + 1)
  write8 _ _ n := n
  write16 _ _ n := n
  write32 _ _ n := n
  write64 _ _ n := n

/-- The slot of operand 1 is read again for the write (R89) and by then answers 2: the sum of `r0` and 1 goes to `r2`. -/
theorem test_countingBus :
    (after (stepOn (countingBus.coded (fun n => List.replicate n (0, 0)) List.length)
      (machine { Regs.zero with r0 := 5 } []))).regs = { Regs.zero with r0 := 5, r2 := 6, pc := 0x10 } ∧
    (after (stepOn (countingBus.coded (fun n => List.replicate n (0, 0)) List.length)
      (machine { Regs.zero with r0 := 5 } []))).mem.length = 3 := by decide

/-! ## Witnesses: for each statement with hypotheses, states and operands that meet them, one for each clause -/

/-- `add r0, #1`, with `r0` all ones. -/
def sAdd : State := at100 0x00020001 0 1 { Regs.zero with r0 := 0xFFFFFFFFFFFFFFFF } []

/-- A word that is no key. -/
def sMiss : State := at100 0x00020000 0 1 Regs.zero []

/-- `hlt`. -/
def sHlt : State := at100 0x00010000 0 0 Regs.zero []

/-- `nop`. -/
def sNop : State := at100 0x00000000 0 0 Regs.zero []

/-- `add` before a `hlt`: both its operands are immediate. -/
def sBeforeHlt : State := at100 0x00020001 0 0x00010000 Regs.zero []

/-- `xchg` of `r0` and the word at 0x211. -/
def sXchg : State := at100 0x00150011 0 0x211 { Regs.zero with r0 := 1 } [(0x211, 2)]

/-- An exchange of the slot at 0x110 itself with the word at 0x12, which puts tag 6 there before the second write. -/
def sXchgSlot : State := at100 0x00150009 0x110 0x12 Regs.zero [(0x12, 0x30)]

/-- `cmpsb` with operand 1 of tag 7. -/
def sBlock1 : State := at100 0x00190001 2 7 Regs.zero []

/-- `cmpsb` with operand 1 a register and operand 2 register-indirect with index 25. -/
def sBlock2 : State := at100 0x00190001 2 0x19 Regs.zero []

theorem witness_StepKeepsInv : ∃ t, sAdd.inv = true ∧ step sAdd = .next t :=
  ⟨_, by decide, next_of_completes _ (by decide)⟩

theorem witness_HostCallsKeepInv : ∃ t, (irqExample 0x96).inv = true ∧ hostCall (.irq 0x18) (irqExample 0x96) = .next t :=
  ⟨_, by decide, next_of_completes _ (by decide)⟩

theorem witness_DecodeOfEncode : (Instr.cmpsq .dir .imm).wellFormed = true := by decide

theorem witness_LookupMatchesAllBits : Key.reserved 0x00020201 ≠ 0 ∧ Key.reserved 0x00028001 ≠ 0 := by decide

theorem witness_EntriesOfOneMnemonicAgree : (Instr.add .rd .imm).opcode = (Instr.add .dir .rd).opcode := by decide

theorem witness_StepRunsTheDecodedInstr :
    sAdd.runState = .running ∧ sAdd.bus = .bound ∧ decode (sAdd.mem.read32 (sAdd.get .pc)) = .ok (.add .rd .imm) := by decide

theorem witness_UnregisteredWordHalts :
    sMiss.runState = .running ∧ sMiss.bus = .bound ∧ sMiss.mem.read32 (sMiss.get .pc) = 0x00020000 ∧
    (∀ i : Instr, i.wellFormed = true → encode i ≠ 0x00020000) := by
  refine ⟨by decide, by decide, by decide, fun i h => ?_⟩
  cases i <;> first
    | decide
    | (rename_i a b; revert h; cases a <;> cases b <;> decide)
    | (rename_i a; revert h; cases a <;> decide)

theorem witness_UnregisteredWordHalts_afterwards :
    ∃ u, HostCall.writesFlags (.nmi 0) = false ∧ hostCall (.nmi 0) (after (step sMiss)) = .next u :=
  ⟨_, rfl, next_of_completes _ (by decide)⟩

theorem witness_WrongStateIsRefused :
    State.reset.runState ≠ .running ∧ sAdd.runState ≠ .init ∧ (after (step sHlt)).runState ≠ .init := by decide

theorem witness_NoBusIsRefused :
    State.reset.bus = .unbound ∧ State.reset.runState = .init ∧
    { State.reset with runState := .running }.bus = .unbound ∧
    { State.reset with runState := .running }.runState = .running := by decide

theorem witness_FetchIsTheFirstTransaction : ∃ t, step sNop = .next t := ⟨_, next_of_completes _ (by decide)⟩

theorem witness_NarrowAccessOnlyInBlockCopies :
    ∃ t u, lookup (sAdd.mem.read32 (sAdd.get .pc)) = some (.add .rd .imm) ∧ (Instr.add .rd .imm).unitSize = none ∧
      step sAdd = .next t ∧
      lookup ((blockExample 0x001C0001 8).mem.read32 ((blockExample 0x001C0001 8).get .pc)) = some (.cmpsq .rd .imm) ∧
      (Instr.cmpsq .rd .imm).unitSize = some .qword ∧ step (blockExample 0x001C0001 8) = .next u :=
  ⟨_, _, by decide, rfl, next_of_completes _ (by decide), by decide, rfl, next_of_completes _ (by decide)⟩

/-- Each of the four outcomes of a step. -/
theorem witness_RunStateAfterStep :
    (∃ t, step sAdd = .next t) ∧ (∃ t, step sHlt = .next t) ∧ (∃ t, step sBeforeHlt = .next t) ∧
    (∃ t, step (at100 0x00020001 11 1 Regs.zero []) = .next t) ∧
    (after (step sBeforeHlt)).report = .failed (.invalidAddressingMode 0) ∧
    (after (step (at100 0x00020001 11 1 Regs.zero []))).report = .failed (.registerIndexOutOfRange 11) :=
  ⟨⟨_, next_of_completes _ (by decide)⟩, ⟨_, next_of_completes _ (by decide)⟩, ⟨_, next_of_completes _ (by decide)⟩,
    ⟨_, next_of_completes _ (by decide)⟩, by decide, by decide⟩

theorem witness_HaltedExactlyOnHltOrMiss :
    (∃ t, step sHlt = .next t ∧ t.runState = .halted ∧ sHlt.mem.read32 (sHlt.get .pc) = 0x00010000) ∧
    (∃ t, step sMiss = .next t ∧ t.runState = .halted ∧ lookup (sMiss.mem.read32 (sMiss.get .pc)) = none) :=
  ⟨⟨_, next_of_completes _ (by decide), by decide, by decide⟩, ⟨_, next_of_completes _ (by decide), by decide, by decide⟩⟩

/-- The tags 0, 6, 7 and the first index that fails. -/
theorem witness_ArgumentsOfHandlerFailures :
    (after (step sBeforeHlt)).report = .failed (.invalidAddressingMode 0) ∧
    (after (step (at100 0x00020001 0 6 Regs.zero []))).report = .failed (.invalidAddressingMode 6) ∧
    (after (step (at100 0x00020001 0 7 Regs.zero []))).report = .failed (.invalidAddressingMode 7) ∧
    (after (step (at100 0x00020001 11 1 Regs.zero []))).report = .failed (.registerIndexOutOfRange 11) ∧
    ∃ t, step sBeforeHlt = .next t :=
  ⟨by decide, by decide, by decide, by decide, ⟨_, next_of_completes _ (by decide)⟩⟩

theorem witness_StepKeepsTheBusBinding : ∃ t, step sAdd = .next t := ⟨_, next_of_completes _ (by decide)⟩

theorem witness_FlagsWithNoWriter :
    ∃ t, lookup (sAdd.mem.read32 (sAdd.get .pc)) = some (.add .rd .imm) ∧ (Instr.add .rd .imm).shape ≠ .exchange ∧
      sAdd.location .one ≠ .ok (.register .flags) ∧ Flag.overflow ≠ .carry ∧ Flag.overflow ≠ .zero ∧
      Flag.overflow ≠ .negative ∧ step sAdd = .next t :=
  ⟨_, by decide, by decide, by decide, by decide, by decide, by decide, next_of_completes _ (by decide)⟩

/-- A step that goes on, and one that does not. -/
theorem witness_PcAfterStep :
    (∃ t, lookup (sAdd.mem.read32 (sAdd.get .pc)) = some (.add .rd .imm) ∧ (Instr.add .rd .imm).shape ≠ .exchange ∧
      sAdd.location .one ≠ .ok (.register .pc) ∧ step sAdd = .next t ∧ t.runState = .running) ∧
    (∃ t, lookup (sBeforeHlt.mem.read32 (sBeforeHlt.get .pc)) = some (.add .rd .imm) ∧
      sBeforeHlt.location .one ≠ .ok (.register .pc) ∧ step sBeforeHlt = .next t ∧ t.runState ≠ .running) :=
  ⟨⟨_, by decide, by decide, by decide, next_of_completes _ (by decide), by decide⟩,
    ⟨_, by decide, by decide, next_of_completes _ (by decide), by decide⟩⟩

theorem witness_NopResult :
    Key.opcode 0x00000001 = 0 ∧ (0x00000001 : Key) ≠ 0x00000000 ∧ sNop.runState = .running ∧ sNop.bus = .bound ∧
    sNop.mem.read32 (sNop.get .pc) = 0x00000000 ∧ (machine Regs.zero []).runState = .running ∧
    (machine Regs.zero []).bus = .bound ∧ ∀ a, (machine Regs.zero []).mem.read8 a = 0 :=
  ⟨by decide, by decide, by decide, by decide, by decide, rfl, rfl, fun _ => rfl⟩

theorem witness_HltResult : sHlt.bus = .bound := by decide

/-- A register destination; the same hypotheses serve the arithmetic, bitwise, shift and rotate statements. -/
theorem witness_ArithmeticResults :
    sAdd.bus = .bound ∧ sAdd.location .one = .ok (.register .r0) ∧ sAdd.location .two = .ok (.literal 1) ∧
    (Location.register .r0).writable = true := by decide

/-- A destination in memory, operand 2 in memory. -/
theorem witness_BitwiseResults :
    sXchgSlot.bus = .bound ∧ sXchgSlot.location .one = .ok (.memory 0x110) ∧
    sXchgSlot.location .two = .ok (.memory 0x12) ∧ (Location.memory 0x110).writable = true := by decide

theorem witness_NotAndNegResults :
    sAdd.bus = .bound ∧ sAdd.location .one = .ok (.register .r0) ∧ (Location.register .r0).writable = true := by decide

/-- A shift by 1, and one by 65: the literal 65 has the low bits 000 001. -/
theorem witness_ShiftResults :
    sAdd.bus = .bound ∧ sAdd.location .one = .ok (.register .r0) ∧ sAdd.location .two = .ok (.literal 1) ∧
    (at100 0x000B0001 0 65 Regs.zero []).location .one = .ok (.register .r0) ∧
    (at100 0x000B0001 0 65 Regs.zero []).location .two = .ok (.literal 65) ∧
    (Location.register .r0).writable = true := by decide

theorem witness_RotateResults :
    (at100 0x000F0001 0 65 Regs.zero []).bus = .bound ∧
    (at100 0x000F0001 0 65 Regs.zero []).location .one = .ok (.register .r0) ∧
    (at100 0x000F0001 0 65 Regs.zero []).location .two = .ok (.literal 65) ∧
    (Location.register .r0).writable = true := by decide

/-- A register operand 1, and an immediate one. -/
theorem witness_CompareResults :
    sAdd.bus = .bound ∧ sAdd.location .one = .ok (.register .r0) ∧ sAdd.location .two = .ok (.literal 1) ∧
    sBeforeHlt.bus = .bound ∧ sBeforeHlt.location .one = .ok (.literal 0) ∧
    sBeforeHlt.location .two = .ok (.literal 0x10000) := by decide

theorem witness_ExchangeResults :
    sXchg.bus = .bound ∧ sXchg.location .one = .ok (.register .r0) ∧ sXchg.location .two = .ok (.memory 0x211) ∧
    (Location.register .r0).writable = true ∧ (Location.memory 0x211).writable = true ∧
    (sXchg.store (.register .r0) (sXchg.valueAt (.memory 0x211))).location .two = .ok (.memory 0x211) ∧
    (sXchg.store (.register .r0) (sXchg.valueAt (.register .r0) + sXchg.valueAt (.memory 0x211))).location .two =
      .ok (.memory 0x211) := by decide

/-- Operand 1 equal to `r0`; operand 1 not equal. -/
theorem witness_CompareExchangeResults :
    sAdd.bus = .bound ∧ sAdd.location .one = .ok (.register .r0) ∧ sAdd.location .two = .ok (.literal 1) ∧
    sAdd.valueAt (.register .r0) = sAdd.get .r0 ∧ (Location.register .r0).writable = true ∧
    (at100 0x00170001 1 1 { Regs.zero with r0 := 7 } []).location .one = .ok (.register .r1) ∧
    (at100 0x00170001 1 1 { Regs.zero with r0 := 7 } []).location .two = .ok (.literal 1) ∧
    (at100 0x00170001 1 1 { Regs.zero with r0 := 7 } []).valueAt (.register .r1) ≠
      (at100 0x00170001 1 1 { Regs.zero with r0 := 7 } []).get .r0 := by decide

theorem witness_BlockCopyResults :
    (Instr.cmpsd .rd .imm).unitSize = some .dword ∧ (blockExample 0x001B0001 4).bus = .bound ∧
    ((blockExample 0x001B0001 4).copied .dword).location .one = .ok (.register .r2) ∧
    (((blockExample 0x001B0001 4).copied .dword).set .r6 0x404).location .two = .ok (.literal 1) := by decide

/-- Operand 1 fails; operand 2 fails. -/
theorem witness_UnreadableOperandsFail :
    (Instr.add .rd .imm).shape ≠ .control ∧ (Instr.add .rd .imm).shape ≠ .block ∧ (Instr.add .rd .imm).shape ≠ .unary ∧
    (at100 0x00020001 0 7 Regs.zero []).bus = .bound ∧
    (at100 0x00020001 0 7 Regs.zero []).location .one = .error (.invalidAddressingMode 7) ∧
    (at100 0x00020001 0 0x19 Regs.zero []).location .one = .ok (.register .r0) ∧
    (at100 0x00020001 0 0x19 Regs.zero []).location .two = .error (.registerIndexOutOfRange 0x19) := by decide

/-- Each clause: one operand; two operands; `cmpxchg` with operand 1 equal to `r0`. -/
theorem witness_ImmediateDestinationFails :
    sBeforeHlt.bus = .bound ∧ sBeforeHlt.location .one = .ok (.literal 0) ∧ (Location.literal 0).writable = false ∧
    sBeforeHlt.location .two = .ok (.literal 0x10000) ∧ (Instr.neg .rd).shape = .unary ∧
    (Instr.add .rd .imm).shape = .update ∧ (Instr.cmpxchg .rd .imm).shape = .compareExchange ∧
    sBeforeHlt.valueAt (.literal 0) = sBeforeHlt.get .r0 := by decide

/-- The second write unresolved; the second write immediate. -/
theorem witness_ExchangeKeepsItsFirstWrite :
    sXchgSlot.bus = .bound ∧ sXchgSlot.location .one = .ok (.memory 0x110) ∧
    sXchgSlot.location .two = .ok (.memory 0x12) ∧ (Location.memory 0x110).writable = true ∧
    (sXchgSlot.store (.memory 0x110) (sXchgSlot.valueAt (.memory 0x12))).location .two =
      .error (.invalidAddressingMode 6) ∧
    sAdd.location .one = .ok (.register .r0) ∧ sAdd.location .two = .ok (.literal 1) ∧
    (sAdd.store (.register .r0) (sAdd.valueAt (.literal 1))).location .two = .ok (.literal 1) ∧
    (sAdd.store (.register .r0) (sAdd.valueAt (.register .r0) + sAdd.valueAt (.literal 1))).location .two =
      .ok (.literal 1) ∧ (Location.literal 1).writable = false := by decide

/-- The same for the sum of `xadd`: 0x12 and 0x1E add up to 0x30, whose bits 5:3 are the tag 6. -/
theorem witness_ExchangeKeepsItsFirstWrite_xadd :
    (at100 0x00160009 0x110 0x12 Regs.zero [(0x12, 0x1E)]).location .one = .ok (.memory 0x110) ∧
    (at100 0x00160009 0x110 0x12 Regs.zero [(0x12, 0x1E)]).location .two = .ok (.memory 0x12) ∧
    ((at100 0x00160009 0x110 0x12 Regs.zero [(0x12, 0x1E)]).store (.memory 0x110) (0x12 + 0x1E)).location .two =
      .error (.invalidAddressingMode 6) := by decide

/-- Operand 1 fails after the copy; operand 2 fails after the copy and the advance. -/
theorem witness_BlockCopyKeepsTheCopy :
    (Instr.cmpsb .rd .imm).unitSize = some .byte ∧ sBlock1.bus = .bound ∧
    (sBlock1.copied .byte).location .one = .error (.invalidAddressingMode 7) ∧
    sBlock2.bus = .bound ∧ (sBlock2.copied .byte).location .one = .ok (.register .r2) ∧
    ((sBlock2.copied .byte).set .r6 0).location .two = .error (.registerIndexOutOfRange 0x19) := by decide

/-- A register destination, a destination in memory, and the first byte past its eight. -/
theorem witness_UpdateFrame :
    (Instr.add .rd .imm).shape = .update ∧ (Instr.not .rd).shape = .unary ∧
    (Instr.cmpxchg .rd .imm).shape = .compareExchange ∧ (∃ t, exec (.add .rd .imm) sAdd = .next t) ∧
    sAdd.location .one ≠ .ok (.register .r1) ∧ (∃ t, exec (.add .dir .rd) sXchgSlot = .next t) ∧
    sXchgSlot.location .one = .ok (.memory 0x110) ∧ inSpan 0x110 8 0x118 = false ∧ inSpan 0x110 8 0x117 = true :=
  ⟨rfl, rfl, rfl, ⟨_, next_of_completes _ (by decide)⟩, by decide, ⟨_, next_of_completes _ (by decide)⟩, by decide,
    by decide, by decide⟩

theorem witness_ShiftFrame :
    (Instr.shl .rd .imm).shape = .shift ∧ (∃ t, exec (.shl .rd .imm) sAdd = .next t) ∧
    sAdd.location .one ≠ .ok (.register .flags) ∧ sAdd.location .one ≠ .ok (.register .r1) ∧ 1 ≠ Flag.carry.position ∧
    ∀ a, sAdd.location .one = .ok (.memory a) → inSpan a 8 0 = false :=
  ⟨rfl, ⟨_, next_of_completes _ (by decide)⟩, by decide, by decide, by decide, fun a h => by
    have h1 : sAdd.location .one = .ok (.register .r0) := by decide
    rw [h1] at h; cases h⟩

theorem witness_CompareFrame :
    (Instr.cmp .rd .imm).shape = .compare ∧ (∃ t, exec (.cmp .rd .imm) sAdd = .next t) ∧
    0 ≠ Flag.zero.position ∧ 0 ≠ Flag.negative.position :=
  ⟨rfl, ⟨_, next_of_completes _ (by decide)⟩, by decide, by decide⟩

theorem witness_ExchangeFrame :
    sXchg.location .one = .ok (.register .r0) ∧ sXchg.location .two = .ok (.memory 0x211) ∧
    (∃ t, exec (.xchg .rd .dir) sXchg = .next t) ∧ (∃ t, exec (.xadd .rd .dir) sXchg = .next t) ∧
    (sXchg.store (.register .r0) (sXchg.valueAt (.memory 0x211))).location .two = .ok (.memory 0x211) ∧
    inSpan 0x211 8 0x219 = false ∧ inSpan 0x211 8 0x210 = false :=
  ⟨by decide, by decide, ⟨_, next_of_completes _ (by decide)⟩, ⟨_, next_of_completes _ (by decide)⟩, by decide, by decide,
    by decide⟩

theorem witness_BlockCopyFrame :
    (Instr.cmpsb .rd .imm).unitSize = some .byte ∧ (∃ t, exec (.cmpsb .rd .imm) (blockExample 0x00190001 1) = .next t) ∧
    inSpan ((blockExample 0x00190001 1).get .r6) 1 0x401 = false :=
  ⟨rfl, ⟨_, next_of_completes _ (by decide)⟩, by decide⟩

theorem witness_ControlFrame :
    Instr.nop.shape = .control ∧ Instr.hlt.shape = .control ∧ (∃ t, exec .nop sNop = .next t) ∧
    (∃ t, exec .hlt sHlt = .next t) :=
  ⟨rfl, rfl, ⟨_, next_of_completes _ (by decide)⟩, ⟨_, next_of_completes _ (by decide)⟩⟩

/-- The rotate forms at 0, where the carry is kept, at 1, and, in the closed form, at 64 and 65. -/
theorem witness_RotateLoopsHaveClosedForms :
    Alu.repeatBit Alu.rolBit 0 (1, false) = (1, false) ∧ Alu.repeatBit Alu.rcrBit 1 (1, false) = (0, true) ∧
    (64 : Nat) ≠ 0 ∧ Alu.rol 1 64 false = (1, true) ∧ Alu.ror 1 64 true = (1, false) ∧ Alu.rcl 1 65 true = (1, true) := by
  decide

/-- No bus; `I` clear; `I` set, in canonical memory. -/
theorem witness_IrqEntry :
    State.reset.bus = .unbound ∧ (irqExample 0x92).bus = .bound ∧ (irqExample 0x92).getFlag .irqEnable = false ∧
    (irqExample 0x96).bus = .bound ∧ (irqExample 0x96).getFlag .irqEnable = true ∧ (irqExample 0x96).mem.wf = true := by
  decide

theorem witness_NmiEntry : State.reset.bus = .unbound ∧ nmiExample.bus = .bound ∧ nmiExample.mem.wf = true := by decide

theorem witness_ReturnUndoesEntry :
    (irqExample 0x96).mem.wf = true ∧ (irqExample 0x96).getFlag .irqEnable = true ∧
    (∃ t, irq 0x18 (irqExample 0x96) = .next t) ∧ nmiExample.mem.wf = true ∧ (∃ t, nmi 8 nmiExample = .next t) :=
  ⟨by decide, by decide, ⟨_, next_of_completes _ (by decide)⟩, by decide, ⟨_, next_of_completes _ (by decide)⟩⟩

theorem witness_PushThenPop : nmiExample.bus = .bound ∧ nmiExample.mem.wf = true ∧ nmiExample.get .sp = 0 := by decide

theorem witness_EndedRunsStayEnded :
    (after (step sHlt)).ended = true ∧ (after (step sBeforeHlt)).ended = true ∧ HostCall.nmi 0 ≠ .reset ∧
    (∃ t, hostCall (.nmi 0) (after (step sHlt)) = .next t) :=
  ⟨by decide, by decide, by decide, ⟨_, next_of_completes _ (by decide)⟩⟩

/-- Zeroed memory is a run of `nop`, on which the fuel is spent; a `hlt` at 0 ends the run before it is. -/
theorem witness_RunIsStartThenSteps :
    { State.reset with bus := .bound }.bus = .bound ∧ { State.reset with bus := .bound }.runState = .init ∧
    (after (run 2 { State.reset with bus := .bound })).runState = .running ∧
    (after (run 2 { State.reset with bus := .bound, mem := slots [(0, 0x00010000)] })).runState = .halted := by decide

/-- A miss; then a step of each shape, one that does not err and, where there is one, one that does. -/
theorem witness_StepErrsExactlyOnOperandFailure :
    (∃ t, step sMiss = .next t ∧ lookup (sMiss.mem.read32 (sMiss.get .pc)) = none) ∧
    (∃ t, step sNop = .next t ∧ lookup (sNop.mem.read32 (sNop.get .pc)) = some .nop ∧ Instr.nop.shape = .control) ∧
    (∃ t, step sAdd = .next t ∧ lookup (sAdd.mem.read32 (sAdd.get .pc)) = some (.add .rd .imm) ∧
      (Instr.add .rd .imm).shape = .update ∧ t.runState = .running) ∧
    (∃ t, step sBeforeHlt = .next t ∧ lookup (sBeforeHlt.mem.read32 (sBeforeHlt.get .pc)) = some (.add .rd .imm) ∧
      t.runState = .error) ∧
    (∃ t, step sXchg = .next t ∧ lookup (sXchg.mem.read32 (sXchg.get .pc)) = some (.xchg .rd .dir) ∧
      t.runState = .running) ∧
    (∃ t, step sBlock1 = .next t ∧ lookup (sBlock1.mem.read32 (sBlock1.get .pc)) = some (.cmpsb .rd .imm) ∧
      (Instr.cmpsb .rd .imm).unitSize = some .byte ∧ t.runState = .error) :=
  ⟨⟨_, next_of_completes _ (by decide), by decide⟩, ⟨_, next_of_completes _ (by decide), by decide, rfl⟩,
    ⟨_, next_of_completes _ (by decide), by decide, rfl, by decide⟩,
    ⟨_, next_of_completes _ (by decide), by decide, by decide⟩,
    ⟨_, next_of_completes _ (by decide), by decide, by decide⟩,
    ⟨_, next_of_completes _ (by decide), by decide, rfl, by decide⟩⟩

/-- The shapes not above: `not`, `cmp`, `cmpxchg`, `xadd`. -/
theorem witness_StepErrsExactlyOnOperandFailure_more :
    (∃ t, step (at100 0x00090001 0 1 Regs.zero []) = .next t ∧ (Instr.not .rd).shape = .unary ∧
      lookup ((at100 0x00090001 0 1 Regs.zero []).mem.read32 0x100) = some (.not .rd)) ∧
    (∃ t, step (at100 0x00130001 0 1 Regs.zero []) = .next t ∧ (Instr.cmp .rd .imm).shape = .compare ∧
      lookup ((at100 0x00130001 0 1 Regs.zero []).mem.read32 0x100) = some (.cmp .rd .imm)) ∧
    (∃ t, step (at100 0x00170001 1 1 Regs.zero []) = .next t ∧ (Instr.cmpxchg .rd .imm).shape = .compareExchange ∧
      lookup ((at100 0x00170001 1 1 Regs.zero []).mem.read32 0x100) = some (.cmpxchg .rd .imm)) ∧
    (∃ t, step (at100 0x00160009 9 9 Regs.zero []) = .next t ∧
      lookup ((at100 0x00160009 9 9 Regs.zero []).mem.read32 0x100) = some (.xadd .rd .rd) ∧ t.runState = .error) :=
  ⟨⟨_, next_of_completes _ (by decide), rfl, by decide⟩, ⟨_, next_of_completes _ (by decide), rfl, by decide⟩,
    ⟨_, next_of_completes _ (by decide), rfl, by decide⟩, ⟨_, next_of_completes _ (by decide), by decide, by decide⟩⟩

/-- The last byte of each width, at an address where the span wraps, and the byte just past it. -/
theorem witness_MemoryIsRam64 :
    Memory.wf [] = true ∧ inSpan 0xFFFFFFFFFFFFFFFF 1 0 = false ∧ inSpan 0xFFFFFFFFFFFFFFFF 2 1 = false ∧
    inSpan 0xFFFFFFFFFFFFFFFF 4 3 = false ∧ inSpan 0xFFFFFFFFFFFFFFFF 8 7 = false ∧
    inSpan 0xFFFFFFFFFFFFFFFF 8 6 = true := by decide

/-- The greatest index that names a register, and the least that does not. -/
theorem witness_RegisterIndexIsChecked :
    (10 : Word).toNat ≤ 10 ∧ 10 < (11 : Word).toNat ∧ (0 : Word).toNat ≤ 10 := by decide

theorem witness_FlagWriteIsOneBit : (Regs.zero).flags = 0 ∧ Reg.r0 ≠ .flags := by decide

/-- Two lanes of each width, and one read back. -/
theorem witness_RegisterViewsAlias :
    laneGet 32 1 (laneSet 32 1 0 0xDEADBEEF) = 0xDEADBEEF ∧ laneGet 32 0 (laneSet 32 1 0x77 0xDEADBEEF) = 0x77 ∧
    laneGet 8 7 (laneSet 8 7 0 0xAB) = 0xAB := by decide

/-- An index at each end, and the first that fails; the three selectors of one mode field, that of operand 3, which no
instruction has, in bits 8:6. -/
theorem witness_ResolverReadsAndWrites :
    Reg.ofIndex 0 = some .r0 ∧ Reg.ofIndex 10 = some .flags ∧ Reg.ofIndex 11 = none ∧
    (at100 0x00020001 0 0x8A Regs.zero []).selector .one = 2 ∧ (at100 0x00020001 0 0x8A Regs.zero []).selector .two = 1 ∧
    (at100 0x00020001 0 0x8A Regs.zero []).selector .three = 2 := by decide

/-- Tags 3, 5 and 1 of operand 2; tag 1 naming `sp`, `pc`, `flags` and no register. -/
theorem witness_OperandTwoIsConfined :
    (at100 0 0 0x18 Regs.zero []).selector .two = 3 ∧ (at100 0 0 0x28 Regs.zero []).selector .two = 5 ∧
    (at100 0 0 8 Regs.zero []).selector .two = 1 ∧ (at100 0 0 9 Regs.zero []).location .two = .ok (.register .pc) ∧
    (at100 0 0 10 Regs.zero []).location .two = .ok (.register .flags) ∧
    (at100 0 0 11 Regs.zero []).location .two = .error (.registerIndexOutOfRange 11) := by decide

/-- A writer before `hlt`, a writer before `nop`, a compare before `hlt`. -/
theorem witness_WritersBeforeHltOrNopFail :
    (lookup (sBeforeHlt.mem.read32 (sBeforeHlt.get .pc)) = some (.add .rd .imm) ∧
      sBeforeHlt.mem.read32 (sBeforeHlt.slot 2) = encode .hlt ∧ ∃ t, step sBeforeHlt = .next t) ∧
    ((at100 0x000A0001 0 0 Regs.zero []).mem.read32 ((at100 0x000A0001 0 0 Regs.zero []).slot 2) = encode .nop ∧
      ∃ t, step (at100 0x000A0001 0 0 Regs.zero []) = .next t) ∧
    (lookup ((at100 0x00130001 0 0x00010000 Regs.zero []).mem.read32 0x100) = some (.cmp .rd .imm) ∧
      (Instr.cmp .rd .imm).shape = .compare ∧ ∃ t, step (at100 0x00130001 0 0x00010000 Regs.zero []) = .next t) :=
  ⟨⟨by decide, by decide, _, next_of_completes _ (by decide)⟩, ⟨by decide, _, next_of_completes _ (by decide)⟩,
    ⟨by decide, by decide, _, next_of_completes _ (by decide)⟩⟩

/-- RAM64 is alike to itself under equality; a state agrees with itself. -/
theorem witness_CoreSeesTheBusOnlyThroughItsPort : BusesAlike Bus.ram64 Bus.ram64 Eq ∧ sAdd.alike Eq sAdd :=
  ⟨{ read8 := fun _ _ _ h => h ▸ ⟨rfl, rfl⟩
     read16 := fun _ _ _ h => h ▸ ⟨rfl, rfl⟩
     read32 := fun _ _ _ h => h ▸ ⟨rfl, rfl⟩
     read64 := fun _ _ _ h => h ▸ ⟨rfl, rfl⟩
     write8 := fun _ _ _ _ h => h ▸ rfl
     write16 := fun _ _ _ _ h => h ▸ rfl
     write32 := fun _ _ _ _ h => h ▸ rfl
     write64 := fun _ _ _ _ h => h ▸ rfl },
    rfl, rfl, rfl, rfl, rfl, rfl⟩

end Sys2Proof.Tests
end

section
/-! The register index check (R14) and the flag bit (R20, R21). -/

namespace Sys2Proof.Machine

/-! ## The register index check (R14) -/

/-- The register with index `i` stands at place `i` of the bank (R11). -/
@[simp] theorem Reg.all_getElem?_index (r : Reg) : Reg.all[r.index]? = some r := by
  cases r <;> rfl

/-- R93: the index check fails with the whole operand value. -/
theorem regIndex_of_ofIndex_none {v : Word} (h : Reg.ofIndex v = none) :
    regIndex v = .error (.registerIndexOutOfRange v) := by
  simp only [regIndex, h]

/-- The three modes that name a register (1 direct, 3 indirect, 5 base-indexed) fail in the resolver, before any access,
when the operand value is no index (R14, R90, R91). -/
theorem locate_of_ofIndex_none {tag : Selector} {v : Word} (s : State) (ht : tag = 1 ∨ tag = 3 ∨ tag = 5)
    (h : Reg.ofIndex v = none) : locate tag v s = .error (.registerIndexOutOfRange v) := by
  have hm : Mode.ofTag tag = some .rd ∨ Mode.ofTag tag = some .ri ∨ Mode.ofTag tag = some .bix := by
    obtain rfl | rfl | rfl := ht <;> decide
  obtain hm | hm | hm := hm <;> simp only [locate, hm, regIndex_of_ofIndex_none h]

/-- An operand that does not resolve is not read: the failure, on any bus, in the state as it was. -/
theorem resolveRead_of_locate_error {tag : Selector} {v : Word} {s : State} {f : Failure} (B : Bus)
    (h : locate tag v s = .error f) : resolveRead B tag v s = .raised f s := by
  simp only [resolveRead, h]

/-- An operand that does not resolve is not written: the failure, on any bus, in the state as it was. -/
theorem resolveWrite_of_locate_error {tag : Selector} {v : Word} {s : State} {f : Failure} (B : Bus) (data : Word)
    (h : locate tag v s = .error f) : resolveWrite B tag v data s = .raised f s := by
  simp only [resolveWrite, h]

/-- Settles O54: above 10 the index names no register, so the resolver fails before the access; up to 10 it names one,
and the register it names stands at that place of the bank. -/
theorem registerIndexIsChecked : Obligations.RegisterIndexIsChecked := by
  refine ⟨fun tag index data s ht hi => ?_, fun index hi => ?_⟩
  · have hl := locate_of_ofIndex_none s ht ((Reg.ofIndex_eq_none index).2 hi)
    exact ⟨resolveRead_of_locate_error _ hl, resolveWrite_of_locate_error _ data hl⟩
  · have hne : Reg.ofIndex index ≠ none := fun h => absurd ((Reg.ofIndex_eq_none index).1 h) (by omega)
    obtain ⟨r, hr⟩ := Option.ne_none_iff_exists'.1 hne
    exact ⟨r, hr, by rw [(Reg.ofIndex_eq_some index r).1 hr, Reg.all_getElem?_index]⟩

/-! ## The flag bit (R20, R21) -/

/-- Every flag stands in the 64 bits of the flags register (R18). -/
theorem Flag.position_lt (f : Flag) : f.position < 64 := by
  cases f <;> decide

/-- The mask `1 << p` of R21 has bit `p` set and no other. -/
theorem Flag.getLsbD_mask (f : Flag) (n : Nat) :
    ((1 : Word) <<< f.position).getLsbD n = decide (n = f.position) := by
  have hp := f.position_lt
  have hm : (1 : Word) <<< f.position = BitVec.twoPow 64 f.position := (BitVec.twoPow_eq ..).symm
  rw [hm, BitVec.getLsbD_twoPow]
  by_cases h : n = f.position
  · simp [h, hp]
  · simp [h, Ne.symm h]

/-- "No side effects beyond the addressed bit" (R21). -/
theorem getLsbD_setFlagBit (w : Word) (f : Flag) (b : Bool) (n : Nat) :
    (setFlagBit w f b).getLsbD n = if n = f.position then b else w.getLsbD n := by
  cases b with
  | true =>
    rw [setFlagBit, if_pos rfl, BitVec.getLsbD_or, Flag.getLsbD_mask]
    by_cases h : n = f.position <;> simp [h]
  | false =>
    rw [setFlagBit, if_neg Bool.false_ne_true, BitVec.getLsbD_and, BitVec.getLsbD_not, Flag.getLsbD_mask]
    by_cases h : n = f.position
    · simp [h]
    · simpa [h] using w.lt_of_getLsbD

/-- Settles O55: the first two clauses are the definitions of R20 and R21; the others say which bits, and which registers,
the formula of R21 changes. -/
theorem flagWriteIsOneBit : Obligations.FlagWriteIsOneBit := by
  intro s f b
  refine ⟨rfl, rfl, fun n => ?_, fun r hr => State.setFlag_get_ne s f b r hr⟩
  rw [State.setFlag_get_flags, getLsbD_setFlagBit]

end Sys2Proof.Machine
end

section
/-! The dispatch lookup (R69): every lookup table of the decoder has the model's own table as its inverse, the five fields of a
key determine it, and so the lookup answers exactly for the keys of R68. -/

namespace Sys2Proof

/-! ## The inverse tables -/

@[simp] theorem Mode.ofTag_tag (m : Mode) : Mode.ofTag m.tag = some m := by
  cases m <;> rfl

/-- A selector names the mode with that tag and no other (R63). -/
theorem Mode.ofTag_eq_some (t : Selector) (m : Mode) : Mode.ofTag t = some m ↔ m.tag = t :=
  ⟨fun h => by simpa only [decide_eq_true_eq] using List.find?_some h, fun h => h ▸ Mode.ofTag_tag m⟩

@[simp] theorem Mnemonic.ofOpcode_opcode (m : Mnemonic) : Mnemonic.ofOpcode (Config.params.opcode m) = some m := by
  cases m <;> decide

/-- An opcode number names the mnemonic it is assigned to and no other (R66). -/
theorem Mnemonic.ofOpcode_eq_some (op : BitVec 16) (m : Mnemonic) :
    Mnemonic.ofOpcode op = some m ↔ Config.params.opcode m = op :=
  ⟨fun h => by simpa only [decide_eq_true_eq] using List.find?_some h, fun h => h ▸ Mnemonic.ofOpcode_opcode m⟩

@[simp] theorem Mnemonic.mnemonic_instr (m : Mnemonic) (a b : Mode) : (m.instr a b).mnemonic = m := by
  cases m <;> rfl

/-- An instruction is made of its mnemonic and its selectors. -/
@[simp] theorem Instr.instr_mnemonic_selectors (i : Instr) : i.mnemonic.instr i.selectors.1 i.selectors.2 = i := by
  cases i <;> rfl

/-! ## The fields of a key -/

/-- The five fields of R61 cover the key: put together in their order they are the key. -/
theorem Key.append_fields (w : Key) : w.opcode ++ w.reserved ++ w.sel3 ++ w.sel2 ++ w.sel1 = w := by
  rw [Key.opcode, Key.reserved, Key.sel3, Key.sel2, Key.sel1,
    BitVec.extractLsb'_append_extractLsb'_eq_extractLsb' (rfl : 16 = 9 + 7),
    BitVec.extractLsb'_append_extractLsb'_eq_extractLsb' (rfl : 9 = 6 + 3),
    BitVec.extractLsb'_append_extractLsb'_eq_extractLsb' (rfl : 6 = 3 + 3),
    BitVec.extractLsb'_append_extractLsb'_eq_extractLsb' (rfl : 3 = 0 + 3)]
  exact BitVec.extractLsb'_eq_self

/-- The key of an instruction has its fields where R61 puts them, for any instruction. -/
theorem keyLayout (i : Instr) : Laws.KeyLayout.Statement i := Laws.fields_of_append ..

/-- A word is the key of an instruction exactly when its five fields are: 32 bits, none left out (R61, R68). -/
theorem encode_eq_iff (i : Instr) (w : Key) :
    encode i = w ↔ w.reserved = 0 ∧ w.sel3 = 0 ∧ i.selectors.1.tag = w.sel1 ∧ i.selectors.2.tag = w.sel2 ∧
      i.opcode = w.opcode := by
  constructor
  · rintro rfl
    obtain ⟨hop, hres, hsel3, hsel2, hsel1⟩ := keyLayout i
    exact ⟨hres, hsel3, hsel1.symm, hsel2.symm, hop.symm⟩
  · rintro ⟨hres, hsel3, hsel1, hsel2, hop⟩
    calc encode i = w.opcode ++ w.reserved ++ w.sel3 ++ w.sel2 ++ w.sel1 := by
          rw [encode, hop, hres, hsel3, hsel2, hsel1]
      _ = w := w.append_fields

/-! ## The decoder -/

/-- The table's entry for an opcode and two selectors is the well-formed instruction that has them (R67, R68). -/
theorem entryFor_eq_ok (op : BitVec 16) (a b : Mode) (i : Instr) :
    entryFor op a b = .ok i ↔ i.opcode = op ∧ i.selectors = (a, b) ∧ i.wellFormed = true := by
  constructor
  · intro h
    unfold entryFor at h
    split at h
    · cases h
    · next m hm =>
      split at h
      · next hentry =>
        cases h
        exact ⟨by rw [Instr.opcode, m.mnemonic_instr, (Mnemonic.ofOpcode_eq_some op m).1 hm], hentry⟩
      · cases h
  · rintro ⟨rfl, hsel, hwf⟩
    have hm : Mnemonic.ofOpcode i.opcode = some i.mnemonic := Mnemonic.ofOpcode_opcode _
    have hi : i.mnemonic.instr a b = i := by
      simpa only [hsel] using i.instr_mnemonic_selectors
    simp only [entryFor, hm, hi, hsel, hwf, and_self, if_true]

/-- The decoder answers an instruction exactly for a word that has no reserved bit set, no third selector, the tags of the
instruction's selectors and its opcode, when the instruction is an entry of the table (R69). -/
theorem decode_eq_ok (w : Key) (i : Instr) :
    decode w = .ok i ↔ w.reserved = 0 ∧ w.sel3 = 0 ∧ i.selectors.1.tag = w.sel1 ∧ i.selectors.2.tag = w.sel2 ∧
      i.opcode = w.opcode ∧ i.wellFormed = true := by
  constructor
  · intro h
    unfold decode at h
    split_ifs at h with hres hsel3
    split at h
    · next a b ha hb =>
      obtain ⟨hop, hsel, hwf⟩ := (entryFor_eq_ok ..).1 h
      rw [hsel]
      exact ⟨not_not.1 hres, not_not.1 hsel3, (Mode.ofTag_eq_some ..).1 ha, (Mode.ofTag_eq_some ..).1 hb, hop, hwf⟩
    · cases h
  · rintro ⟨hres, hsel3, hsel1, hsel2, hop, hwf⟩
    have hentry : entryFor w.opcode i.selectors.1 i.selectors.2 = .ok i := (entryFor_eq_ok ..).2 ⟨hop, rfl, hwf⟩
    simp only [decode, hres, hsel3, ← hsel1, ← hsel2, Mode.ofTag_tag, hentry, ne_eq, not_true, if_false]

/-- The decoder matches a word against the whole key of R68. -/
theorem decode_eq_ok_iff_encode (w : Key) (i : Instr) : decode w = .ok i ↔ i.wellFormed = true ∧ encode i = w := by
  rw [decode_eq_ok, encode_eq_iff]
  tauto

/-- The lookup is the decoder without its reason for a miss (R85). -/
theorem lookup_eq_some (w : Key) (i : Instr) : lookup w = some i ↔ decode w = .ok i := by
  unfold lookup
  split <;> simp [*]

/-- One of the bits 15:9 set, and the word selects nothing (R69). -/
theorem lookup_eq_none_of_reserved {w : Key} (h : w.reserved ≠ 0) : lookup w = none := by
  simp only [lookup, decode, if_pos h]

/-- Settles O6: the decoder compares the five fields, and they are all of the word. -/
theorem lookupMatchesAllBits : Obligations.LookupMatchesAllBits := fun w i =>
  ⟨(lookup_eq_some w i).trans (decode_eq_ok_iff_encode w i), lookup_eq_none_of_reserved⟩

end Sys2Proof
end

section
/-! The operand helpers and the resolver (R87 to R91). -/

namespace Sys2Proof.Machine

/-! ## The slots and the selectors -/

theorem State.slot_one (s : State) : s.slot 1 = s.get .pc + Config.params.slot := rfl

theorem State.slot_two (s : State) : s.slot 2 = s.get .pc + 2 * Config.params.slot := rfl

theorem State.slot_three (s : State) : s.slot 3 = s.get .pc + 3 * Config.params.slot := rfl

/-- Where the value of operand `k` stands, and which bits of the mode field `mf` select its mode (R75, R87, R88). -/
theorem slot_and_selectorOf (s : State) (mf : ModeField) {k : Operand} {a : Word} {sel : Selector}
    (h : (k = .one ∧ a = s.get .pc + Config.params.slot ∧ sel = mf.extractLsb' 0 3) ∨
      (k = .two ∧ a = s.get .pc + 2 * Config.params.slot ∧ sel = mf.extractLsb' 3 3) ∨
      (k = .three ∧ a = s.get .pc + 3 * Config.params.slot ∧ sel = mf.extractLsb' 6 3)) :
    s.slot k.number = a ∧ selectorOf mf k = sel := by
  obtain ⟨rfl, rfl, rfl⟩ | ⟨rfl, rfl, rfl⟩ | ⟨rfl, rfl, rfl⟩ := h
  · exact ⟨s.slot_one, rfl⟩
  · exact ⟨s.slot_two, rfl⟩
  · exact ⟨s.slot_three, rfl⟩

/-- `op_read(k)` is the two logged reads, then the resolver (R88). -/
theorem opRead_eq_resolveRead (k : Operand) (s : State) :
    opRead Bus.ram64 k s = resolveRead Bus.ram64 (s.selector k) (s.operandValue k) (s.note (s.slotTraffic k)) := by
  rw [opRead, fetchOperand_eq]

/-- `op_write(k, data)` is the two logged reads, then the resolver (R89). -/
theorem opWrite_eq_resolveWrite (k : Operand) (data : Word) (s : State) :
    opWrite Bus.ram64 k data s =
      resolveWrite Bus.ram64 (s.selector k) (s.operandValue k) data (s.note (s.slotTraffic k)) := by
  rw [opWrite, fetchOperand_eq]

/-! ## What an operand names, by its tag (R63, R90) -/

theorem regIndex_of_ofIndex_some {v : Word} {r : Reg} (h : Reg.ofIndex v = some r) : regIndex v = .ok r := by
  simp only [regIndex, h]

theorem locate_imm (v : Word) (s : State) : locate 0 v s = .ok (.literal v) := rfl

theorem locate_rd {i : Word} {r : Reg} (s : State) (h : Reg.ofIndex i = some r) :
    locate 1 i s = .ok (.register r) := by
  have hm : Mode.ofTag 1 = some .rd := Mode.ofTag_tag .rd
  simp only [locate, hm, regIndex_of_ofIndex_some h]

theorem locate_dir (v : Word) (s : State) : locate 2 v s = .ok (.memory v) := rfl

theorem locate_ri {i : Word} {r : Reg} (s : State) (h : Reg.ofIndex i = some r) :
    locate 3 i s = .ok (.memory (s.get r)) := by
  have hm : Mode.ofTag 3 = some .ri := Mode.ofTag_tag .ri
  simp only [locate, hm, regIndex_of_ofIndex_some h]

theorem locate_idx (v : Word) (s : State) : locate 4 v s = .ok (.memory (s.get .r6 + v)) := rfl

theorem locate_bix {i : Word} {r : Reg} (s : State) (h : Reg.ofIndex i = some r) :
    locate 5 i s = .ok (.memory (s.get .r6 + s.get r)) := by
  have hm : Mode.ofTag 5 = some .bix := Mode.ofTag_tag .bix
  simp only [locate, hm, regIndex_of_ofIndex_some h]

/-- The tags 6 and 7 name no mode (R63, R154). -/
theorem locate_of_no_mode {tag : Selector} (v : Word) (s : State) (ht : tag = 6 ∨ tag = 7) :
    locate tag v s = .error (.invalidAddressingMode tag) := by
  have hm : Mode.ofTag tag = none := by obtain rfl | rfl := ht <;> decide
  simp only [locate, hm]

/-- The four memory modes and their effective addresses. -/
theorem locate_memory {i v x a : Word} {r : Reg} {tag : Selector} (s : State) (hr : Reg.ofIndex i = some r)
    (h : (tag = 2 ∧ x = v ∧ a = v) ∨ (tag = 3 ∧ x = i ∧ a = s.get r) ∨ (tag = 4 ∧ x = v ∧ a = s.get .r6 + v) ∨
      (tag = 5 ∧ x = i ∧ a = s.get .r6 + s.get r)) :
    locate tag x s = .ok (.memory a) := by
  obtain ⟨rfl, rfl, rfl⟩ | ⟨rfl, rfl, rfl⟩ | ⟨rfl, rfl, rfl⟩ | ⟨rfl, rfl, rfl⟩ := h
  · exact locate_dir _ s
  · exact locate_ri s hr
  · exact locate_idx _ s
  · exact locate_bix s hr

/-! ## The access to a resolved operand (R90, R91) -/

theorem resolveRead_of_locate {tag : Selector} {v : Word} {s : State} {l : Location} (B : Bus)
    (h : locate tag v s = .ok l) : resolveRead B tag v s = readLocation B l s := by
  simp only [resolveRead, h]

theorem resolveWrite_of_locate {tag : Selector} {v : Word} {s : State} {l : Location} (B : Bus) (data : Word)
    (h : locate tag v s = .ok l) : resolveWrite B tag v data s = writeLocation B l data s := by
  simp only [resolveWrite, h]

/-- Settles O57: the access to operand `k` is its two logged reads and the resolver; the resolver is `locate` and then the
access to what it names, so each mode is one equation of `locate`. -/
theorem resolverReadsAndWrites : Obligations.ResolverReadsAndWrites := by
  refine ⟨?_, ?_⟩
  · rintro s s' k mf sel a x data rfl hk rfl rfl
    obtain ⟨ha, hsel⟩ := slot_and_selectorOf s _ hk
    have hs : s.selector k = sel := hsel
    have hv : s.operandValue k = s.mem.read64 a := congrArg s.mem.read64 ha
    have ht : s.slotTraffic k = [.read16 (s.get .pc + 2 * Config.params.slot)
        (s.mem.read16 (s.get .pc + 2 * Config.params.slot)), .read64 a (s.mem.read64 a)] := by
      rw [State.slotTraffic, hv, ha, s.slot_two]
    refine ⟨?_, ?_, hs, hv, ?_, ht⟩
    · rw [opRead_eq_resolveRead, hs, hv, ht]
    · rw [opWrite_eq_resolveWrite, hs, hv, ht]
    · rw [State.location, hs, hv]
  · intro s v data r i hr
    refine ⟨resolveRead_of_locate _ (locate_imm v s), resolveWrite_of_locate _ data (locate_imm v s),
      resolveRead_of_locate _ (locate_rd s hr), resolveWrite_of_locate _ data (locate_rd s hr),
      fun tag x a h => ?memory, fun tag ht => ?noMode, fun tag j ht hj => ?noRegister,
      locate_imm v s, locate_rd s hr, rfl, rfl, rfl, rfl, rfl⟩
    case memory =>
      have hl := locate_memory s hr h
      exact ⟨resolveRead_of_locate _ hl, resolveWrite_of_locate _ data hl, hl⟩
    case noMode =>
      have hl := locate_of_no_mode v s ht
      exact ⟨resolveRead_of_locate_error _ hl, resolveWrite_of_locate_error _ data hl, hl⟩
    case noRegister =>
      have hl := locate_of_ofIndex_none s ht hj
      exact ⟨resolveRead_of_locate_error _ hl, resolveWrite_of_locate_error _ data hl, hl⟩

end Sys2Proof.Machine
end

section
/-! The stack primitives (R96, R97). -/

namespace Sys2Proof.Machine

/-- `push(v)` on RAM64, whole: `sp` down by 8, the value stored at the new `sp`, one transaction (R96). -/
theorem push_ram64 (v : Word) (s : State) :
    push Bus.ram64 v s =
      { s.set .sp (s.get .sp - 8) with mem := s.mem.write64 (s.get .sp - 8) v }.note [.write64 (s.get .sp - 8) v] := rfl

/-- `pop()` on RAM64, whole: the value at `sp`, `sp` up by 8, one transaction (R97). -/
theorem pop_ram64 (s : State) :
    pop Bus.ram64 s = (s.mem.read64 (s.get .sp),
      (s.set .sp (s.get .sp + 8)).note [.read64 (s.get .sp) (s.mem.read64 (s.get .sp))]) := rfl

/-- The registers after `push`, on any bus: only `sp` has moved. -/
theorem push_get (B : Bus) (v : Word) (s : State) (r : Reg) :
    (push B v s).get r = if r = .sp then s.get .sp - 8 else s.get r := State.set_get s .sp r _

/-- The registers after `pop`, on any bus: only `sp` has moved. -/
theorem pop_get (B : Bus) (s : State) (r : Reg) :
    (pop B s).2.get r = if r = .sp then s.get .sp + 8 else s.get r := State.set_get s .sp r _

/-- `pop` after `push` reads the value pushed, in canonical memory. -/
theorem pop_push_value (v : Word) (s : State) (hw : s.mem.wf = true) : (pop Bus.ram64 (push Bus.ram64 v s)).1 = v := by
  have hsp : (push Bus.ram64 v s).get .sp = s.get .sp - 8 := by rw [push_get, if_pos rfl]
  calc (pop Bus.ram64 (push Bus.ram64 v s)).1
      = (push Bus.ram64 v s).mem.read64 ((push Bus.ram64 v s).get .sp) := rfl
    _ = (s.mem.write64 (s.get .sp - 8) v).read64 (s.get .sp - 8) := by rw [hsp]; rfl
    _ = v := Memory.read64_write64_same _ _ _ hw

/-- `pop` after `push` leaves every register as it was, on any bus: 8 is taken from `sp` and added again. -/
theorem pop_push_regs (B : Bus) (v : Word) (s : State) : (pop B (push B v s)).2.regs = s.regs := by
  refine Regs.ext_get _ _ fun r => ?_
  change (pop B (push B v s)).2.get r = s.get r
  rw [pop_get, push_get, push_get, if_pos rfl]
  split
  · next h => rw [h, BitVec.sub_add_cancel]
  · rfl

/-- Settles O48: the two whole next states, and the round trip through the 64-bit word in memory. -/
theorem pushThenPop : Obligations.PushThenPop := by
  intro s v _
  refine ⟨?_, ?_, ?_, ?_, ?_, ?_, ?_, fun r hr => ⟨?_, ?_⟩, fun hw => ⟨pop_push_value v s hw, pop_push_regs _ v s⟩⟩
  · rw [push_get, if_pos rfl]
  · rw [push_ram64, State.note_mem]
  · rw [push_ram64, State.note_log, State.set_log]
  · rw [pop_ram64]
  · rw [pop_get, if_pos rfl]
  · rw [pop_ram64, State.note_mem, State.set_mem]
  · rw [pop_ram64, State.note_log, State.set_log]
  · rw [push_get, if_neg hr]
  · rw [pop_get, if_neg hr]

end Sys2Proof.Machine
end

section
/-! The run states that end a run (R84): what the calls of the host do in them. -/

namespace Sys2Proof.Machine

/-! ## Interrupts leave the run state alone (R165, R166, R171), on any bus -/

@[simp] theorem push_runState (B : Bus) (v : Word) (s : State) : (push B v s).runState = s.runState := rfl

@[simp] theorem pop_runState (B : Bus) (s : State) : (pop B s).2.runState = s.runState := rfl

@[simp] theorem State.entryFlags_runState (s : State) (b : Bool) : (s.entryFlags b).runState = s.runState := by
  cases b <;> rfl

theorem takeInterrupt_runState (B : Bus) (base vector : Word) (b : Bool) (s : State) :
    (takeInterrupt B base vector b s).runState = s.runState :=
  State.entryFlags_runState (push B (s.get .flags) (push B (s.get .pc) s)) b

theorem returnSequence_runState (B : Bus) (s : State) : (returnSequence B s).runState = s.runState := rfl

theorem irqOn_runState {B : Bus} {vector : Word} {s t : State} (h : irqOn B vector s = .next t) :
    t.runState = s.runState := by
  unfold irqOn at h
  split at h
  · cases h
  · cases h
    split
    · exact takeInterrupt_runState ..
    · rfl

theorem nmiOn_runState {B : Bus} {vector : Word} {s t : State} (h : nmiOn B vector s = .next t) :
    t.runState = s.runState := by
  unfold nmiOn at h
  split at h
  · cases h
  · cases h
    exact takeInterrupt_runState ..

theorem hostReturnOn_runState {B : Bus} {s t : State} (h : hostReturnOn B s = .next t) : t.runState = s.runState := by
  unfold hostReturnOn at h
  split at h
  · cases h
  · cases h
    exact returnSequence_runState ..

/-! ## Ended runs -/

theorem State.ended_iff (s : State) : s.ended = true ↔ s.runState = .halted ∨ s.runState = .error := by
  simp [State.ended]

/-- R82, R196: a step needs `running`. -/
theorem step_of_ended {s : State} (h : s.ended = true) : step s = .refused (.wrongState s.runState) := by
  refine step_not_ready s _ ?_
  obtain h | h := s.ended_iff.1 h <;> simp only [State.notReady, h]

/-- R195, R196: `start` needs `init`. -/
theorem start_of_ended {s : State} (h : s.ended = true) : start s = .refused (.wrongState s.runState) := by
  obtain h | h := s.ended_iff.1 h <;> simp only [start, h]

/-- R83, R196: `run` begins with `start`, so it is refused where `start` is, whatever the step. -/
theorem runBy_of_ended {s : State} (st : State → Host.Outcome State Fault Refusal) (fuel : Nat) (h : s.ended = true) :
    runBy st fuel s = .refused (.wrongState s.runState) := by
  simp only [runBy, start_of_ended h]

/-- In an ended run no call but `reset` changes the run state: the three calls that could are refused. -/
theorem hostCall_runState_of_ended {c : HostCall} {s t : State} (hs : s.ended = true) (hc : c ≠ .reset)
    (h : hostCall c s = .next t) : t.runState = s.runState := by
  cases c with
  | reset => exact absurd rfl hc
  | bind | unbind | swapBus | poke | writeReg | writeLane32 | writeLane16 | writeLane8 | writeFloat => cases h; rfl
  | start => cases (start_of_ended hs).symm.trans h
  | step => cases (step_of_ended hs).symm.trans h
  | run fuel => cases (runBy_of_ended step fuel hs).symm.trans h
  | irq => exact irqOn_runState h
  | nmi => exact nmiOn_runState h
  | interruptReturn => exact hostReturnOn_runState h

/-- Settles O49: every call that could leave the run state needs `running` or `init`; `reset` needs nothing. -/
theorem endedRunsStayEnded : Obligations.EndedRunsStayEnded := fun _ hs =>
  ⟨⟨_, step_of_ended hs⟩, ⟨_, rfl, rfl⟩, fun _ _ hc h => hostCall_runState_of_ended hs hc h⟩

end Sys2Proof.Machine
end

section
/-! The control instruction `nop` (R110): its one key, the step that executes it, and the run of a core in zeroed memory. -/

/-! ## The one key of `nop` -/

namespace Sys2Proof

/-- Opcode 0 is the opcode of `nop` alone, which has no selectors (R66). -/
theorem Instr.eq_nop_of_opcode {i : Instr} (h : i.opcode = 0) : i = .nop := by
  have hm : i.mnemonic = .nop :=
    Option.some.inj <| calc
      some i.mnemonic = Mnemonic.ofOpcode i.opcode := (Mnemonic.ofOpcode_opcode i.mnemonic).symm
      _ = Mnemonic.ofOpcode (Config.params.opcode .nop) := congrArg _ h
      _ = some .nop := Mnemonic.ofOpcode_opcode .nop
  calc i = i.mnemonic.instr i.selectors.1 i.selectors.2 := i.instr_mnemonic_selectors.symm
    _ = .nop := by rw [hm]; rfl

/-- The key of `nop` is the word 0 (R66, R68). -/
@[simp] theorem encode_nop : encode .nop = 0x00000000 := by decide

theorem lookup_eq_some_nop (w : Key) : lookup w = some .nop ↔ w = 0x00000000 := by
  have hwf : Instr.wellFormed .nop = true := by decide
  rw [lookup_eq_some, decode_eq_ok_iff_encode, encode_nop, and_iff_right hwf, eq_comm]

/-- A word that the lookup finds has the opcode of the instruction found (R61, R69). -/
theorem opcode_of_lookup_eq_some {w : Key} {i : Instr} (h : lookup w = some i) : i.opcode = w.opcode := by
  obtain ⟨-, -, -, -, hop, -⟩ := (decode_eq_ok w i).1 ((lookup_eq_some w i).1 h)
  exact hop

/-- With opcode 0 the other 16 bits must be 0 too, or the word selects nothing (R69, R110). -/
theorem lookup_eq_none_of_opcode_zero {w : Key} (hop : w.opcode = 0) (hw : w ≠ 0x00000000) : lookup w = none := by
  cases hl : lookup w with
  | none => rfl
  | some i =>
    obtain rfl := Instr.eq_nop_of_opcode ((opcode_of_lookup_eq_some hl).trans hop)
    exact absurd ((lookup_eq_some_nop w).1 hl) hw

end Sys2Proof

namespace Sys2Proof.Machine

/-! ## A step that returned `ok` -/

@[simp] theorem State.done_get_pc (s : State) : s.done.get .pc = s.get .pc + 2 * Config.params.slot := rfl

@[simp] theorem State.done_runState (s : State) : s.done.runState = s.runState := rfl

@[simp] theorem State.done_bus (s : State) : s.done.bus = s.bus := rfl

@[simp] theorem State.done_mem (s : State) : s.done.mem = s.mem := rfl

/-! ## The step that executes `nop` -/

theorem exec_nop {s : State} (hb : s.bus = .bound) : exec .nop s = .next s.done := by
  rw [exec_eq, execute_eq _ _ hb]
  rfl

/-- The word 0 at `pc`: the fetch is logged and `pc` advances, the outcome is `ok` (R82, R110). -/
theorem step_nop {s : State} (hr : s.runState = .running) (hb : s.bus = .bound)
    (hk : s.mem.read32 (s.get .pc) = 0x00000000) :
    step s = .next (s.note [.read32 (s.get .pc) 0x00000000]).done := by
  have hkey : s.key = 0x00000000 := hk
  have hl : lookup s.key = some .nop := (lookup_eq_some_nop _).2 hkey
  rw [step_ready s ((notReady_eq_none s).2 ⟨hr, hb⟩), hl, fetched_eq, hkey]
  exact exec_nop hb

/-! ## Zeroed memory -/

theorem Memory.read16_of_zeroed {m : Memory} (hz : ∀ a, m.read8 a = 0) (a : Word) : m.read16 a = 0 := by
  rw [Memory.read16, hz, hz]
  rfl

theorem Memory.read32_of_zeroed {m : Memory} (hz : ∀ a, m.read8 a = 0) (a : Word) : m.read32 a = 0 := by
  rw [Memory.read32, read16_of_zeroed hz, read16_of_zeroed hz]
  rfl

/-- The first of several steps of a running core (R83), whatever the step. -/
theorem runStepsBy_succ {st : State → Host.Outcome State Fault Refusal} {s t : State} (n : Nat)
    (hr : s.runState = .running) (h : st s = .next t) : runStepsBy st (n + 1) s = runStepsBy st n t := by
  simp only [runStepsBy, hr, h]

/-- In zeroed memory every step is a `nop`, which leaves the memory zeroed and the core running: the run goes on for any
number of steps (R110). -/
theorem runSteps_of_zeroed (n : Nat) (s : State) (hr : s.runState = .running) (hb : s.bus = .bound)
    (hz : ∀ a, s.mem.read8 a = 0) :
    ∃ t, runSteps n s = .next t ∧ t.runState = .running ∧
      t.get .pc = s.get .pc + BitVec.ofNat 64 n * (2 * Config.params.slot) := by
  induction n generalizing s with
  | zero => exact ⟨s, rfl, hr, by simp⟩
  | succ n ih =>
    have hstep := step_nop hr hb (Memory.read32_of_zeroed hz _)
    obtain ⟨t, hrun, htr, htpc⟩ := ih (s.note [.read32 (s.get .pc) 0x00000000]).done hr hb hz
    refine ⟨t, (runStepsBy_succ n hr hstep).trans hrun, htr, ?_⟩
    have hn : BitVec.ofNat 64 (n + 1) = BitVec.ofNat 64 n + 1 := BitVec.ofNat_add n 1
    rw [htpc, State.done_get_pc, State.note_get, hn]
    ring

/-- Settles O22: the key by the decoder's match of all 32 bits, the two next states by the equations of `nop`, the run by
induction on the number of steps. -/
theorem nopResult : Obligations.NopResult :=
  ⟨fun w => ⟨lookup_eq_some_nop w, lookup_eq_none_of_opcode_zero⟩, fun _ hb => exec_nop hb,
    fun _ hr hb hk => step_nop hr hb hk, runSteps_of_zeroed⟩

end Sys2Proof.Machine
end

section
/-! The failures of a handler: `Halted` is raised by `hlt` alone (R153, R154, R155). -/

/-! ## The one key of `hlt`, and the words that are no key -/

namespace Sys2Proof

/-- The key of `hlt` (R66, R68). -/
@[simp] theorem encode_hlt : encode .hlt = 0x00010000 := by decide

theorem lookup_eq_some_hlt (w : Key) : lookup w = some .hlt ↔ w = 0x00010000 := by
  have hwf : Instr.wellFormed .hlt = true := by decide
  rw [lookup_eq_some, decode_eq_ok_iff_encode, encode_hlt, and_iff_right hwf, eq_comm]

/-- The lookup misses exactly the words that are the key of no entry of the table (R69, R85). -/
theorem lookup_eq_none (w : Key) : lookup w = none ↔ ∀ i : Instr, i.wellFormed = true → encode i ≠ w := by
  simp only [Option.eq_none_iff_forall_ne_some, ne_eq, lookup_eq_some, decode_eq_ok_iff_encode, not_and]

end Sys2Proof

namespace Sys2Proof.Machine

/-! ## What a handler can raise -/

/-- Every failure that a handler, or a part of one, ends with satisfies `Q`. -/
def Result.raisesOnly {α : Type} (Q : Failure → Prop) : Result α → Prop
  | .ok _ _ => True
  | .raised f _ => Q f

/-- `Q` holds of the failures of the operand helpers: those of the resolver, and that of a write to an immediate operand
(R90, R91). -/
structure OperandFailures (Q : Failure → Prop) : Prop where
  location : ∀ {k : Operand} {s : State} {f : Failure}, s.location k = .error f → Q f
  immediate : Q (.invalidAddressingMode 0)

theorem Result.raisesOnly_andThen {α β : Type} {Q : Failure → Prop} {r : Result α} {k : α → State → Result β}
    (hr : r.raisesOnly Q) (hk : ∀ v s, (k v s).raisesOnly Q) : (r.andThen k).raisesOnly Q := by
  cases r with
  | ok v s => exact hk v s
  | raised f s => exact hr

section
variable {Q : Failure → Prop}

theorem opRead_raisesOnly (hQ : OperandFailures Q) (k : Operand) (s : State) : (opRead Bus.ram64 k s).raisesOnly Q := by
  cases h : s.location k with
  | ok l => rw [opRead_of_ok h]; trivial
  | error f => rw [opRead_of_error h]; exact hQ.location h

theorem opWrite_raisesOnly (hQ : OperandFailures Q) (k : Operand) (d : Word) (s : State) :
    (opWrite Bus.ram64 k d s).raisesOnly Q := by
  cases h : s.location k with
  | error f => rw [opWrite_of_error h]; exact hQ.location h
  | ok l =>
    cases hw : l.writable with
    | true => rw [opWrite_of_ok h hw]; trivial
    | false => rw [opWrite_of_literal h hw]; exact hQ.immediate

/-- After a read of an operand only what follows it remains to be looked at. -/
theorem opRead_andThen_raisesOnly (hQ : OperandFailures Q) {k : Operand} {s : State} {β : Type}
    {next : Word → State → Result β} (h : ∀ v s', (next v s').raisesOnly Q) :
    ((opRead Bus.ram64 k s).andThen next).raisesOnly Q :=
  Result.raisesOnly_andThen (opRead_raisesOnly hQ k s) h

theorem compareExchangeHandler_raisesOnly (hQ : OperandFailures Q) (s : State) :
    (compareExchangeHandler Bus.ram64 s).raisesOnly Q :=
  opRead_andThen_raisesOnly hQ fun a _ => opRead_andThen_raisesOnly hQ fun b s2 => by
    by_cases h : a = s2.get .r0
    · rw [if_pos h]; exact opWrite_raisesOnly hQ .one b s2
    · rw [if_neg h]; trivial

/-- No handler but that of `hlt` raises a failure of its own: its failures are those of the operand helpers. -/
theorem handlerOf_raisesOnly (hQ : OperandFailures Q) {i : Instr} (hi : i ≠ .hlt) (s : State) :
    (handlerOf Bus.ram64 i s).raisesOnly Q := by
  cases i
  case hlt => exact absurd rfl hi
  case nop => trivial
  case add | sub | adc | sbb | and | or | xor =>
    exact opRead_andThen_raisesOnly hQ fun _ _ => opRead_andThen_raisesOnly hQ fun _ _ => opWrite_raisesOnly hQ _ _ _
  case not | neg => exact opRead_andThen_raisesOnly hQ fun _ _ => opWrite_raisesOnly hQ _ _ _
  case shl | shr | sal | sar | rol | ror | rcl | rcr =>
    exact opRead_andThen_raisesOnly hQ fun _ _ => opRead_andThen_raisesOnly hQ fun _ _ =>
      Result.raisesOnly_andThen (opWrite_raisesOnly hQ _ _ _) fun _ _ => trivial
  case cmp | test | cmpsb | cmpsw | cmpsd | cmpsq =>
    exact opRead_andThen_raisesOnly hQ fun _ _ => opRead_andThen_raisesOnly hQ fun _ _ => trivial
  case xchg | xadd =>
    exact opRead_andThen_raisesOnly hQ fun _ _ => opRead_andThen_raisesOnly hQ fun _ _ =>
      Result.raisesOnly_andThen (opWrite_raisesOnly hQ _ _ _) fun _ _ => opWrite_raisesOnly hQ _ _ _
  case cmpxchg | cmpxchg8b => exact compareExchangeHandler_raisesOnly hQ s

end

/-- The operand helpers never raise `Halted` (R154, R155). -/
theorem operandFailures_ne_halted : OperandFailures (· ≠ .halted) :=
  ⟨location_error_ne_halted, nofun⟩

/-- A handler leaves the run state alone: the engine changes it (R82). -/
theorem kept_runState (r : RunState) : Kept fun s => s.runState = r :=
  ⟨fun _ _ h => h, fun s l v h => (s.store_runState l v).trans h, fun _ _ _ h => h, fun _ _ h => h⟩

theorem State.takeFailure_runState_ne_halted {f : Failure} (s : State) (hf : f ≠ .halted) :
    (s.takeFailure f).runState ≠ .halted := by
  cases f with
  | halted => exact absurd rfl hf
  | invalidAddressingMode tag => exact nofun
  | registerIndexOutOfRange index => exact nofun

/-- An instruction other than `hlt` does not halt a running core (R153). -/
theorem exec_runState_ne_halted {i : Instr} {s t : State} (hi : i ≠ .hlt) (hr : s.runState = .running)
    (h : exec i s = .next t) : t.runState ≠ .halted := by
  obtain ⟨-, ⟨s', hok, rfl⟩ | ⟨f, s', hraised, rfl⟩⟩ := exec_next h
  · have hrun := handlerOf_keeps (kept_runState .running) i s hr
    rw [hok] at hrun
    exact fun hh => nomatch hrun.symm.trans hh
  · have hf := handlerOf_raisesOnly operandFailures_ne_halted hi s
    rw [hraised] at hf
    exact s'.takeFailure_runState_ne_halted hf

/-- `hlt` takes the failure `Halted` in the state as it is (R111). -/
theorem exec_hlt {s : State} (hb : s.bus = .bound) : exec .hlt s = .next (s.takeFailure .halted) := by
  rw [exec_eq, execute_eq _ _ hb]
  rfl

/-! ## The three ways of a step (R82, R153) -/

theorem State.takeMiss_get_ne (s : State) {r : Reg} (h : r ≠ .flags) : s.takeMiss.get r = s.get r :=
  s.setFlag_get_ne .illegal true r h

/-- `ILL` is bit 8 (R18, R152). -/
theorem State.takeMiss_get_flags (s : State) : s.takeMiss.get .flags = s.get .flags ||| 0x100 := rfl

theorem State.takeMiss_getFlag_illegal (s : State) : s.takeMiss.getFlag .illegal = true := by
  change (setFlagBit (s.get .flags) .illegal true).getLsbD Flag.illegal.position = true
  rw [getLsbD_setFlagBit, if_pos rfl]

/-- A running core with a bus takes a dispatch miss right after the fetch (R82, R152). -/
theorem step_miss {s : State} (hr : s.runState = .running) (hb : s.bus = .bound) (hl : lookup s.key = none) :
    step s = .next s.fetched.takeMiss := by
  rw [step_ready s ((notReady_eq_none s).2 ⟨hr, hb⟩), hl]

/-- A step is a dispatch miss, an `hlt`, or an instruction that does not halt. -/
theorem step_next_cases {s t : State} (h : step s = .next t) :
    (lookup s.key = none ∧ t = s.fetched.takeMiss) ∨
    (lookup s.key = some .hlt ∧ t = s.fetched.takeFailure .halted) ∨
    (∃ i, lookup s.key = some i ∧ i ≠ .hlt ∧ t.runState ≠ .halted) := by
  obtain ⟨hr, hb, hmiss | ⟨i, hl, he⟩⟩ := step_next h
  · exact .inl hmiss
  · by_cases hi : i = .hlt
    · subst hi
      have ht : exec .hlt s.fetched = .next (s.fetched.takeFailure .halted) := exec_hlt hb
      exact .inr (.inl ⟨hl, Host.Outcome.next.inj (he.symm.trans ht)⟩)
    · exact .inr (.inr ⟨i, hl, hi, exec_runState_ne_halted (s := s.fetched) hi hr he⟩)

/-- Settles O17: the three ways of a step, each with one of the three answers of the lookup. -/
theorem haltedExactlyOnHltOrMiss : Obligations.HaltedExactlyOnHltOrMiss := by
  intro s t h
  change (_ ↔ s.key = _ ∨ lookup s.key = none) ∧ _ ∧ (s.key = _ → _) ∧ (lookup s.key = none → _)
  rw [← lookup_eq_some_hlt s.key]
  obtain ⟨hl, rfl⟩ | ⟨hl, rfl⟩ | ⟨i, hl, hi, hrun⟩ := step_next_cases h
  case inl =>
    rw [hl]
    exact ⟨⟨fun _ => .inr rfl, fun _ => rfl⟩, fun _ => ⟨rfl, s.fetched.takeMiss_get_ne nofun⟩, nofun,
      fun _ => s.fetched.takeMiss_getFlag_illegal⟩
  case inr.inl =>
    rw [hl]
    exact ⟨⟨fun _ => .inl rfl, fun _ => rfl⟩, fun _ => ⟨rfl, rfl⟩, fun _ => rfl, nofun⟩
  case inr.inr =>
    rw [hl]
    have hne : some i ≠ some Instr.hlt := fun e => hi (Option.some.inj e)
    exact ⟨⟨fun hh => absurd hh hrun, fun hh => hh.elim (absurd · hne) nofun⟩, fun hh => absurd hh hrun,
      fun hh => absurd hh hne, nofun⟩

end Sys2Proof.Machine
end

section
/-! Interrupt entry (R165, R166), and the calls that are refused without a bus (R156). -/

namespace Sys2Proof.Machine

/-! ## Two 64-bit words side by side -/

/-- A 64-bit write leaves the 64-bit word right above it alone (R57). -/
theorem Memory.read64_write64_below (m : Memory) (a v : Word) : (m.write64 a v).read64 (a + 8) = m.read64 (a + 8) := by
  refine Memory.read64_congr _ _ _ fun k hk => Memory.read8_write64_out _ _ _ _ ?_
  have hk8 : ¬ (8 + BitVec.ofNat 64 k - 0).toNat < 8 := by
    interval_cases k <;> decide
  have hout := inSpan_below a 0 (8 + BitVec.ofNat 64 k) 8 hk8
  rwa [add_zero, ← add_assoc] at hout

/-! ## The two pushes of an entry, on RAM64 -/

theorem sub_eight_twice (a : Word) : a - 8 - 8 = a - 16 := by
  ring

/-- The state after the two pushes of an entry: `pc`, and below it the flags (R165, R166). -/
def State.saved (s : State) : State := push Bus.ram64 (s.get .flags) (push Bus.ram64 (s.get .pc) s)

/-- The two pushes move `sp` down by 16 and leave every other register alone (R96). -/
theorem State.saved_get (s : State) (r : Reg) : s.saved.get r = if r = .sp then s.get .sp - 16 else s.get r := by
  rw [State.saved, push_get, push_get, push_get, if_pos rfl, sub_eight_twice]
  split <;> rfl

theorem State.saved_mem (s : State) :
    s.saved.mem = (s.mem.write64 (s.get .sp - 8) (s.get .pc)).write64 (s.get .sp - 16) (s.get .flags) := by
  rw [← sub_eight_twice]
  rfl

theorem State.saved_log (s : State) :
    s.saved.log = s.log ++ [.write64 (s.get .sp - 8) (s.get .pc), .write64 (s.get .sp - 16) (s.get .flags)] := by
  rw [← sub_eight_twice]
  exact List.append_assoc s.log [_] [_]

/-- In canonical memory both words are found where `sp` points afterwards (R165). -/
theorem State.saved_read64 (s : State) (hw : s.mem.wf = true) :
    s.saved.mem.read64 (s.get .sp - 16) = s.get .flags ∧ s.saved.mem.read64 (s.get .sp - 16 + 8) = s.get .pc := by
  have ha : s.get .sp - 8 = s.get .sp - 16 + 8 := by ring
  rw [State.saved_mem]
  constructor
  · exact Memory.read64_write64_same _ _ _ (Memory.wf_write64 _ _ _ hw)
  · rw [Memory.read64_write64_below, ha, Memory.read64_write64_same _ _ _ hw]

/-! ## The flags of an entry -/

theorem State.entryFlags_get_ne (s : State) (b : Bool) {r : Reg} (h : r ≠ .flags) : (s.entryFlags b).get r = s.get r := by
  cases b with
  | true => exact ((s.setFlag .irqEnable true).setFlag_get_ne .brk false r h).trans (s.setFlag_get_ne _ _ r h)
  | false => exact s.setFlag_get_ne _ _ r h

@[simp] theorem State.entryFlags_mem (s : State) (b : Bool) : (s.entryFlags b).mem = s.mem := by
  cases b <;> rfl

@[simp] theorem State.entryFlags_bus (s : State) (b : Bool) : (s.entryFlags b).bus = s.bus := by
  cases b <;> rfl

@[simp] theorem State.entryFlags_log (s : State) (b : Bool) : (s.entryFlags b).log = s.log := by
  cases b <;> rfl

/-- `irq` sets `I`, bit 2, and clears `B`, bit 4 (R165). -/
theorem State.entryFlags_true_get_flags (s : State) :
    (s.entryFlags true).get .flags = (s.get .flags ||| 0x4) &&& ~~~0x10 := rfl

/-- `nmi` sets `I`, bit 2 (R166). -/
theorem State.entryFlags_false_get_flags (s : State) : (s.entryFlags false).get .flags = s.get .flags ||| 0x4 := rfl

/-! ## The entry on RAM64 -/

section
variable (base vector : Word) (b : Bool) (s : State)

/-- The entry, whole: the pushes, the flags, then `pc` from the table entry, one logged read (R165, R166). -/
theorem takeInterrupt_ram64 :
    takeInterrupt Bus.ram64 base vector b s =
      ((s.saved.entryFlags b).set .pc (s.saved.mem.read64 (base + vector))).note
        [.read64 (base + vector) (s.saved.mem.read64 (base + vector))] := by
  rw [← s.saved.entryFlags_mem b]
  rfl

theorem takeInterrupt_mem : (takeInterrupt Bus.ram64 base vector b s).mem = s.saved.mem := by
  rw [takeInterrupt_ram64, State.note_mem, State.set_mem, State.entryFlags_mem]

theorem takeInterrupt_bus : (takeInterrupt Bus.ram64 base vector b s).bus = s.bus := by
  rw [takeInterrupt_ram64, State.note_bus, State.set_bus, State.entryFlags_bus]
  rfl

theorem takeInterrupt_get_pc :
    (takeInterrupt Bus.ram64 base vector b s).get .pc = s.saved.mem.read64 (base + vector) := by
  rw [takeInterrupt_ram64, State.note_get, State.set_get_same]

theorem takeInterrupt_get_flags :
    (takeInterrupt Bus.ram64 base vector b s).get .flags = (s.saved.entryFlags b).get .flags := by
  rw [takeInterrupt_ram64, State.note_get, State.set_get_ne _ .pc .flags _ nofun]

theorem takeInterrupt_get_ne {r : Reg} (hf : r ≠ .flags) (hp : r ≠ .pc) :
    (takeInterrupt Bus.ram64 base vector b s).get r = if r = .sp then s.get .sp - 16 else s.get r := by
  rw [takeInterrupt_ram64, State.note_get, State.set_get_ne _ _ _ _ hp, State.entryFlags_get_ne _ _ hf, State.saved_get]

theorem takeInterrupt_get_sp : (takeInterrupt Bus.ram64 base vector b s).get .sp = s.get .sp - 16 := by
  rw [takeInterrupt_get_ne (r := .sp) base vector b s nofun nofun, if_pos rfl]

theorem takeInterrupt_log :
    (takeInterrupt Bus.ram64 base vector b s).log =
      s.log ++ [.write64 (s.get .sp - 8) (s.get .pc), .write64 (s.get .sp - 16) (s.get .flags),
        .read64 (base + vector) ((takeInterrupt Bus.ram64 base vector b s).get .pc)] := by
  rw [takeInterrupt_get_pc, takeInterrupt_ram64, State.note_log, State.set_log, State.entryFlags_log, State.saved_log,
    List.append_assoc]
  rfl

/-- What `irq` and `nmi` have in common (R165, R166): everything but the call, the table and the flags they leave. -/
theorem takeInterrupt_common :
    let t := takeInterrupt Bus.ram64 base vector b s
    t.get .pc = t.mem.read64 (base + vector) ∧
      (∀ r, r ≠ .sp → r ≠ .flags → r ≠ .pc → t.get r = s.get r) ∧ t.runState = s.runState ∧ t.bus = s.bus ∧
      t.log = s.log ++ [.write64 (s.get .sp - 8) (s.get .pc), .write64 (s.get .sp - 16) (s.get .flags),
        .read64 (base + vector) (t.get .pc)] ∧
      (s.mem.wf = true → t.mem.read64 (t.get .sp) = s.get .flags ∧ t.mem.read64 (t.get .sp + 8) = s.get .pc) := by
  refine ⟨?_, fun r hs hf hp => ?_, takeInterrupt_runState .., takeInterrupt_bus .., takeInterrupt_log .., fun hw => ?_⟩
  · rw [takeInterrupt_get_pc, takeInterrupt_mem]
  · rw [takeInterrupt_get_ne base vector b s hf hp, if_neg hs]
  · rw [takeInterrupt_mem, takeInterrupt_get_sp]
    exact s.saved_read64 hw

end

/-! ## The calls `irq` and `nmi` -/

theorem irq_of_unbound (vector : Word) {s : State} (hb : s.bus = .unbound) : irq vector s = .refused .noBus := by
  simp only [irq, irqOn, hb]

theorem nmi_of_unbound (vector : Word) {s : State} (hb : s.bus = .unbound) : nmi vector s = .refused .noBus := by
  simp only [nmi, nmiOn, hb]

/-- "dropped, with no effect at all, while `I` is 0" (R165). -/
theorem irq_of_disabled (vector : Word) {s : State} (hb : s.bus = .bound) (hI : s.getFlag .irqEnable = false) :
    irq vector s = .next s := by
  simp only [irq, irqOn, hb, hI, Bool.false_eq_true, if_false]

theorem irq_of_enabled (vector : Word) {s : State} (hb : s.bus = .bound) (hI : s.getFlag .irqEnable = true) :
    irq vector s = .next (takeInterrupt Bus.ram64 Config.params.irqVectorBase vector true s) := by
  simp only [irq, irqOn, hb, hI, if_true]

theorem nmi_of_bound (vector : Word) {s : State} (hb : s.bus = .bound) :
    nmi vector s = .next (takeInterrupt Bus.ram64 Config.params.nmiVectorBase vector false s) := by
  simp only [nmi, nmiOn, hb]

/-- Settles O45: the two cases without an entry, and the entry that clears `B`. -/
theorem irqEntry : Obligations.IrqEntry := by
  refine fun vector s => ⟨irq_of_unbound vector, irq_of_disabled vector, fun hb hI => ⟨_, irq_of_enabled vector hb hI,
    takeInterrupt_get_sp .., ?mem, ?flags, takeInterrupt_common ..⟩⟩
  case mem => rw [takeInterrupt_mem, State.saved_mem]
  case flags =>
    rw [takeInterrupt_get_flags, State.entryFlags_true_get_flags, State.saved_get, if_neg nofun]

/-- Settles O46: the entry that keeps `B`, whatever `I` is. -/
theorem nmiEntry : Obligations.NmiEntry := by
  refine fun vector s => ⟨nmi_of_unbound vector, fun hb => ⟨_, nmi_of_bound vector hb,
    takeInterrupt_get_sp .., ?mem, ?flags, takeInterrupt_common ..⟩⟩
  case mem => rw [takeInterrupt_mem, State.saved_mem]
  case flags =>
    rw [takeInterrupt_get_flags, State.entryFlags_false_get_flags, State.saved_get, if_neg nofun]

/-! ## Without a bus (R156) -/

/-- A running core without a bus is refused before the fetch (R82). -/
theorem step_of_unbound {s : State} (hr : s.runState = .running) (hb : s.bus = .unbound) :
    step s = .refused .noBus := by
  refine step_not_ready s _ ?_
  simp only [State.notReady, hr, hb]

/-- `run` in `init` without a bus is refused; the state that `start` would have left is not answered (R83, R156). -/
theorem run_of_unbound (fuel : Nat) {s : State} (hr : s.runState = .init) (hb : s.bus = .unbound) :
    run fuel s = .refused .noBus := by
  simp only [run, runBy, start, hr, hb]

/-- Settles O13: each of the four calls looks at the bus before it changes anything. -/
theorem noBusIsRefused : Obligations.NoBusIsRefused := fun _ vector fuel hb =>
  ⟨(step_of_unbound · hb), (run_of_unbound fuel · hb), irq_of_unbound vector hb, nmi_of_unbound vector hb⟩

end Sys2Proof.Machine
end

section
/-! An illegal instruction (R152): the step that takes the miss, and `ILL` afterwards. -/

namespace Sys2Proof.Machine

/-- A flag written leaves the flags at other positions alone (R21). -/
theorem State.setFlag_getFlag_ne (s : State) {f g : Flag} (b : Bool) (h : g.position ≠ f.position) :
    (s.setFlag f b).getFlag g = s.getFlag g := by
  rw [State.getFlag, State.setFlag_get_flags, getLsbD_setFlagBit, if_neg h, State.getFlag]

/-- A register other than the flags register, written, leaves every flag alone. -/
theorem State.set_getFlag (s : State) (f : Flag) {r : Reg} (v : Word) (h : r ≠ .flags) :
    (s.set r v).getFlag f = s.getFlag f := by
  rw [State.getFlag, State.set_get_ne _ _ _ _ h.symm, State.getFlag]

/-- An entry writes no flag but `I` and `B`: `ILL` is as before (R165, R166). -/
theorem takeInterrupt_getFlag_illegal (base vector : Word) (b : Bool) (s : State) :
    (takeInterrupt Bus.ram64 base vector b s).getFlag .illegal = s.getFlag .illegal := by
  have hsaved : s.saved.getFlag .illegal = s.getFlag .illegal := by
    rw [State.getFlag, State.saved_get, if_neg nofun, State.getFlag]
  rw [takeInterrupt_ram64, State.note_getFlag, State.set_getFlag (r := .pc) _ _ _ nofun, ← hsaved]
  cases b with
  | true =>
    exact ((s.saved.setFlag .irqEnable true).setFlag_getFlag_ne false (by decide)).trans
      (s.saved.setFlag_getFlag_ne true (by decide))
  | false => exact s.saved.setFlag_getFlag_ne true (by decide)

theorem irq_getFlag_illegal {vector : Word} {s t : State} (h : irq vector s = .next t) :
    t.getFlag .illegal = s.getFlag .illegal := by
  unfold irq irqOn at h
  split at h
  · cases h
  · cases h
    split
    · exact takeInterrupt_getFlag_illegal ..
    · rfl

theorem nmi_getFlag_illegal {vector : Word} {s t : State} (h : nmi vector s = .next t) :
    t.getFlag .illegal = s.getFlag .illegal := by
  unfold nmi nmiOn at h
  split at h
  · cases h
  · cases h
    exact takeInterrupt_getFlag_illegal ..

/-- In an ended run no call but those that write the flags register changes `ILL` (R152): `start`, `step` and `run` are
refused, a register accessor writes another register, and an interrupt writes other flags. -/
theorem hostCall_getFlag_illegal_of_ended {c : HostCall} {s t : State} (hs : s.ended = true) (hc : c.writesFlags = false)
    (h : hostCall c s = .next t) : t.getFlag .illegal = s.getFlag .illegal := by
  cases c with
  | reset | interruptReturn => cases hc
  | bind | unbind | swapBus | poke => cases h; rfl
  | writeReg | writeLane32 | writeLane16 | writeLane8 | writeFloat =>
    cases h
    exact s.set_getFlag _ _ (of_decide_eq_false hc)
  | start => cases (start_of_ended hs).symm.trans h
  | step => cases (step_of_ended hs).symm.trans h
  | run fuel => cases (runBy_of_ended step fuel hs).symm.trans h
  | irq => exact irq_getFlag_illegal h
  | nmi => exact nmi_getFlag_illegal h

/-- Settles O11: the step takes the miss in the state after the fetch; the state it leaves is ended, with `ILL` set. -/
theorem unregisteredWordHalts : Obligations.UnregisteredWordHalts := by
  intro s hr hb hkey
  have hended : s.fetched.takeMiss.ended = true := (State.ended_iff _).2 (.inl rfl)
  exact ⟨_, step_miss hr hb ((lookup_eq_none s.key).2 hkey), rfl, rfl, fun r hne => s.fetched.takeMiss_get_ne hne,
    s.fetched.takeMiss_get_flags, fun _ => rfl, rfl, rfl, fun c u hc hu =>
      (hostCall_getFlag_illegal_of_ended hended hc hu).trans s.fetched.takeMiss_getFlag_illegal⟩

end Sys2Proof.Machine
end

section
/-! Reset (R190, R191): what the state that `reset()` answers holds. -/

namespace Sys2Proof.Machine

@[simp] theorem Regs.zero_get (r : Reg) : Regs.zero.get r = 0 := by
  cases r <;> rfl

/-- The flags are bits of register 10 (R18), so a zero there clears every one of them. -/
theorem State.getFlag_of_flags_zero {s : State} (h : s.get .flags = 0) (f : Flag) : s.getFlag f = false := by
  rw [State.getFlag, h]
  exact BitVec.getLsbD_zero

@[simp] theorem resetCore_get (s : State) (r : Reg) : (resetCore s).get r = 0 := Regs.zero_get r

@[simp] theorem resetCore_getFlag (s : State) (f : Flag) : (resetCore s).getFlag f = false :=
  State.getFlag_of_flags_zero (resetCore_get s .flags) f

/-- The call `reset` is refused in no state and under no binding (R190). -/
theorem hostCall_reset (s : State) : hostCall .reset s = .next (resetCore s) := rfl

/-- Settles O1: `reset` builds its state from the power-on state and takes over the host's memory and the log alone. -/
theorem resetAndPowerOn : Obligations.ResetAndPowerOn := fun s =>
  ⟨resetCore s, hostCall_reset s, resetCore_get s, resetCore_getFlag s, rfl, rfl, rfl, rfl, rfl, rfl, rfl⟩

end Sys2Proof.Machine
end

section
/-! What a step keeps, and how it ends: the bus binding, the fetch as the first transaction, the run states and the
arguments of the failures (R23, R25, R81, R150, R151), and from these the invariant. -/

namespace Sys2Proof.Machine

/-! ## What every step keeps -/

/-- What a step keeps: what every handler keeps, kept also by the two ways the engine ends a step (R82). -/
structure KeptByStep (P : State → Prop) : Prop extends Kept P where
  done : ∀ s, P s → P s.done
  takeFailure : ∀ f s, P s → P (s.takeFailure f)

theorem exec_keeps {P : State → Prop} (hP : KeptByStep P) {i : Instr} {s t : State} (hs : P s) (h : exec i s = .next t) :
    P t := by
  have hh := handlerOf_keeps hP.toKept i s hs
  obtain ⟨-, ⟨s', hok, rfl⟩ | ⟨f, s', hraised, rfl⟩⟩ := exec_next h
  · rw [hok] at hh
    exact hP.done s' hh
  · rw [hraised] at hh
    exact hP.takeFailure f s' hh

/-- What holds right after the fetch, if a step keeps it, holds after the step. -/
theorem step_keeps_of_fetched {P : State → Prop} (hP : KeptByStep P) {s t : State} (hs : P s.fetched)
    (h : step s = .next t) : P t := by
  obtain ⟨-, -, ⟨-, rfl⟩ | ⟨i, -, he⟩⟩ := step_next h
  · exact hP.takeFailure _ _ (hP.set _ _ _ hs)
  · exact exec_keeps hP hs he

theorem step_keeps {P : State → Prop} (hP : KeptByStep P) {s t : State} (hs : P s) (h : step s = .next t) : P t :=
  step_keeps_of_fetched hP (hP.note s _ hs) h

theorem keptByStep_bus (b : BusBinding) : KeptByStep fun s => s.bus = b where
  note _ _ h := h
  store s l v h := (s.store_bus l v).trans h
  set _ _ _ h := h
  copied _ _ h := h
  done _ h := h
  takeFailure _ _ h := h

/-- The log only grows. -/
theorem keptByStep_log_append (ts : List Transaction) : KeptByStep fun s => ∃ rest, s.log = ts ++ rest where
  note _ us := fun ⟨rest, h⟩ => ⟨rest ++ us, by rw [State.note_log, h, List.append_assoc]⟩
  store s l v := fun ⟨rest, h⟩ => ⟨rest, (s.store_log l v).trans h⟩
  set _ _ _ h := h
  copied _ _ h := h
  done _ h := h
  takeFailure _ _ h := h

theorem keptByStep_wf : KeptByStep fun s => s.mem.wf = true where
  note _ _ h := h
  store s l v h := store_wf s l v h
  set _ _ _ h := h
  copied s u h := copied_wf u s h
  done _ h := h
  takeFailure _ _ h := h

/-- Settles O19: no operation of a handler or of the engine writes the binding. -/
theorem stepKeepsTheBusBinding : Obligations.StepKeepsTheBusBinding := fun s _ h =>
  step_keeps (keptByStep_bus s.bus) rfl h

/-- Settles O14: the fetch is logged before the instruction runs, and the log only grows. -/
theorem fetchIsTheFirstTransaction : Obligations.FetchIsTheFirstTransaction := by
  intro s t h
  obtain ⟨rest, hlog⟩ := step_keeps_of_fetched
    (keptByStep_log_append (s.log ++ [.read32 (s.get .pc) (s.mem.read32 (s.get .pc))])) ⟨[], (List.append_nil _).symm⟩ h
  exact ⟨rest, by rw [hlog, List.append_assoc, List.singleton_append]⟩

/-! ## How a step ends -/

/-- An instruction in a running core completes with `ok`, or its failure is taken (R82, R150). -/
theorem exec_ends {i : Instr} {s t : State} (hr : s.runState = .running) (h : exec i s = .next t) :
    (t.runState = .running ∧ t.report = .ok) ∨ ∃ f u, t = State.takeFailure f u := by
  obtain ⟨-, ⟨s', hok, rfl⟩ | ⟨f, s', -, rfl⟩⟩ := exec_next h
  · have hrun := handlerOf_keeps (kept_runState .running) i s hr
    rw [hok] at hrun
    exact .inl ⟨hrun, rfl⟩
  · exact .inr ⟨f, s', rfl⟩

theorem step_ends {s t : State} (h : step s = .next t) :
    (t.runState = .running ∧ t.report = .ok) ∨ ∃ f u, t = State.takeFailure f u := by
  obtain ⟨hr, -, ⟨-, rfl⟩ | ⟨i, -, he⟩⟩ := step_next h
  · exact .inr ⟨_, _, rfl⟩
  · exact exec_ends (s := s.fetched) hr he

/-- Settles O16: each failure taken has its run state (R151). -/
theorem runStateAfterStep : Obligations.RunStateAfterStep := by
  intro s t h
  obtain hok | ⟨f, u, rfl⟩ := step_ends h
  · exact .inl hok
  · cases f with
    | halted => exact .inr (.inl ⟨rfl, rfl⟩)
    | invalidAddressingMode tag => exact .inr (.inr (.inl ⟨rfl, tag, rfl⟩))
    | registerIndexOutOfRange index => exact .inr (.inr (.inr ⟨rfl, index, rfl⟩))

/-! ## The arguments of the failures -/

/-- A selector that names no mode is 6 or 7 (R63). -/
theorem tag_of_ofTag_eq_none : ∀ tag : Selector, Mode.ofTag tag = none → tag = 6 ∨ tag = 7 := by
  decide

theorem regIndex_eq_error {v : Word} {f : Failure} (h : regIndex v = .error f) :
    f = .registerIndexOutOfRange v ∧ 10 < v.toNat := by
  cases hv : Reg.ofIndex v with
  | none =>
    rw [regIndex_of_ofIndex_none hv] at h
    exact ⟨(Except.error.inj h).symm, (Reg.ofIndex_eq_none v).1 hv⟩
  | some r => cases (regIndex_of_ofIndex_some hv).symm.trans h

/-- The resolver fails in two ways: with a tag that is no mode, or with an operand value that is no index (R154, R155). -/
theorem locate_eq_error {tag : Selector} {v : Word} {s : State} {f : Failure} (h : locate tag v s = .error f) :
    (f = .invalidAddressingMode tag ∧ (tag = 6 ∨ tag = 7)) ∨ (f = .registerIndexOutOfRange v ∧ 10 < v.toNat) := by
  unfold locate at h
  split at h
  case h_1 hm => exact .inl ⟨(Except.error.inj h).symm, tag_of_ofTag_eq_none tag hm⟩
  case h_2 | h_4 | h_6 => cases h
  case h_3 | h_5 | h_7 =>
    split at h
    · cases h
    · next he =>
      cases h
      exact .inr (regIndex_eq_error he)

/-- The argument a failure may have: the tag 0 of an immediate or one of the two that are no mode; an index above 10. -/
def Failure.argumentFits : Failure → Prop
  | .halted => True
  | .invalidAddressingMode tag => tag = 0 ∨ tag = 6 ∨ tag = 7
  | .registerIndexOutOfRange index => 10 < index.toNat

theorem operandFailures_argumentFits : OperandFailures Failure.argumentFits where
  location h := by
    obtain ⟨rfl, ht⟩ | ⟨rfl, hi⟩ := locate_eq_error h
    · exact .inr ht
    · exact hi
  immediate := .inl rfl

/-- The failure that a step reports is `Halted`, or one of the operand helpers'. -/
theorem step_report_failed {Q : Failure → Prop} (hQ : OperandFailures Q) (hhalted : Q .halted) {s t : State} {f : Failure}
    (h : step s = .next t) (ht : t.report = .failed f) : Q f := by
  obtain ⟨-, -, ⟨-, rfl⟩ | ⟨i, -, he⟩⟩ := step_next h
  · cases ht
    exact hhalted
  · obtain ⟨-, ⟨s', -, rfl⟩ | ⟨g, s', hraised, rfl⟩⟩ := exec_next he
    · cases ht
    · obtain rfl : g = f := Report.failed.inj ht
      by_cases hi : i = .hlt
      · subst hi
        cases hraised
        exact hhalted
      · have hg := handlerOf_raisesOnly hQ hi s.fetched
        rwa [hraised] at hg

/-- Settles O18: the two failures of the resolver, and the write to an immediate operand. -/
theorem argumentsOfHandlerFailures : Obligations.ArgumentsOfHandlerFailures := fun _ _ h =>
  ⟨fun _ ht => step_report_failed operandFailures_argumentFits trivial h ht,
    fun _ ht => step_report_failed operandFailures_argumentFits trivial h ht⟩

/-! ## The invariant -/

theorem State.inv_iff (s : State) : s.inv = true ↔ s.mem.wf = true ∧ s.coherent = true := by
  simp only [State.inv, Bool.and_eq_true]

/-- Settles O2: nothing is listed, and nothing has been reported. -/
theorem resetStateSatisfiesInv : Obligations.ResetStateSatisfiesInv := rfl

/-- A failure taken is the outcome that belongs to the run state it leaves (R151). -/
theorem State.takeFailure_coherent (f : Failure) (s : State) : (s.takeFailure f).coherent = true := by
  cases f <;> rfl

theorem State.coherent_of_running {s : State} (hr : s.runState = .running) (hp : s.report = .ok) : s.coherent = true := by
  simp only [State.coherent, hr, hp]

/-- Settles O3: the memory is written by `Memory.write…` alone, and the engine sets outcome and run state together. -/
theorem stepKeepsInv : Obligations.StepKeepsInv := by
  intro s t hs h
  obtain ⟨hw, -⟩ := s.inv_iff.1 hs
  refine t.inv_iff.2 ⟨step_keeps keptByStep_wf hw h, ?_⟩
  obtain ⟨hr, hp⟩ | ⟨f, u, rfl⟩ := step_ends h
  · exact State.coherent_of_running hr hp
  · exact State.takeFailure_coherent f u

/-- The invariant looks at three fields: memory, run state and outcome. -/
theorem State.inv_congr {s t : State} (hs : s.inv = true) (hm : t.mem.wf = true) (hr : t.runState = s.runState)
    (hp : t.report = s.report) : t.inv = true := by
  obtain ⟨-, hc⟩ := s.inv_iff.1 hs
  refine t.inv_iff.2 ⟨hm, ?_⟩
  rwa [State.coherent, hr, hp]

/-- In `init` nothing has been reported yet (R23, R150). -/
theorem State.report_of_init {s : State} (hc : s.coherent = true) (hr : s.runState = .init) : s.report = .noStepYet := by
  cases hp : s.report with
  | noStepYet => rfl
  | ok | failed => simp only [State.coherent, hr, hp, Bool.false_eq_true] at hc

/-- `start` leaves `init`, with nothing reported (R195). -/
theorem start_inv {s t : State} (hs : s.inv = true) (h : start s = .next t) : t.inv = true := by
  obtain ⟨hw, hc⟩ := s.inv_iff.1 hs
  unfold start at h
  split at h
  · next hr =>
    cases h
    refine (State.inv_iff _).2 ⟨hw, ?_⟩
    simp only [State.coherent, State.report_of_init hc hr]
  all_goals cases h

/-- Steps that keep a property keep it in every number. -/
theorem runStepsBy_keeps {P : State → Prop} {st : State → Host.Outcome State Fault Refusal}
    (hst : ∀ s t, P s → st s = .next t → P t) (fuel : Nat) {s t : State} (hs : P s)
    (h : runStepsBy st fuel s = .next t) : P t := by
  induction fuel generalizing s with
  | zero => cases h; exact hs
  | succ n ih =>
    unfold runStepsBy at h
    split at h
    · split at h
      · next u hu => exact ih (hst s u hs hu) h
      · cases h
      · cases h
    all_goals cases h; exact hs

theorem run_inv {fuel : Nat} {s t : State} (hs : s.inv = true) (h : run fuel s = .next t) : t.inv = true := by
  unfold run runBy at h
  split at h
  · next u hu =>
    split at h
    · cases h
    · exact runStepsBy_keeps stepKeepsInv fuel (start_inv hs hu) h
  all_goals cases h

theorem takeInterrupt_report (base vector : Word) (b : Bool) (s : State) :
    (takeInterrupt Bus.ram64 base vector b s).report = s.report := by
  cases b <;> rfl

/-- An entry writes the memory by its two pushes, and neither the run state nor the outcome (R165, R166; log 23). -/
theorem takeInterrupt_inv (base vector : Word) (b : Bool) {s : State} (hs : s.inv = true) :
    (takeInterrupt Bus.ram64 base vector b s).inv = true := by
  obtain ⟨hw, -⟩ := s.inv_iff.1 hs
  refine State.inv_congr hs ?_ (takeInterrupt_runState ..) (takeInterrupt_report ..)
  rw [takeInterrupt_mem, State.saved_mem]
  exact Memory.wf_write64 _ _ _ (Memory.wf_write64 _ _ _ hw)

theorem irq_inv {vector : Word} {s t : State} (hs : s.inv = true) (h : irq vector s = .next t) : t.inv = true := by
  unfold irq irqOn at h
  split at h
  · cases h
  · cases h
    split
    · exact takeInterrupt_inv _ _ _ hs
    · exact hs

theorem nmi_inv {vector : Word} {s t : State} (hs : s.inv = true) (h : nmi vector s = .next t) : t.inv = true := by
  unfold nmi nmiOn at h
  split at h
  · cases h
  · cases h
    exact takeInterrupt_inv _ _ _ hs

@[simp] theorem returnSequence_mem (s : State) : (returnSequence Bus.ram64 s).mem = s.mem := by
  simp only [returnSequence, pop_ram64, State.set_mem, State.note_mem]

@[simp] theorem returnSequence_report (s : State) : (returnSequence Bus.ram64 s).report = s.report := by
  simp only [returnSequence, pop_ram64, State.set_report, State.note_report]

theorem hostReturn_inv {s t : State} (hs : s.inv = true) (h : hostReturn s = .next t) : t.inv = true := by
  obtain ⟨hw, -⟩ := s.inv_iff.1 hs
  unfold hostReturn hostReturnOn at h
  split at h
  · cases h
  · cases h
    refine State.inv_congr hs ?_ (returnSequence_runState ..) (returnSequence_report s)
    rwa [returnSequence_mem]

/-- Settles O4: the calls that step keep it by O3; the others write the memory by `Memory.write…` and leave run state and
outcome alone, or set both. -/
theorem hostCallsKeepInv : Obligations.HostCallsKeepInv := by
  intro c s t hs h
  obtain ⟨hw, -⟩ := s.inv_iff.1 hs
  cases c with
  | reset =>
    cases h
    exact (State.inv_iff _).2 ⟨hw, rfl⟩
  | bind | unbind | writeReg | writeLane32 | writeLane16 | writeLane8 | writeFloat =>
    cases h
    exact State.inv_congr hs hw rfl rfl
  | swapBus image =>
    cases h
    exact State.inv_congr hs (Memory.wf_ofImage image) rfl rfl
  | poke a b =>
    cases h
    exact State.inv_congr hs (Memory.wf_write8 _ a b hw) rfl rfl
  | start => exact start_inv hs h
  | step => exact stepKeepsInv s t hs h
  | run fuel => exact run_inv hs h
  | irq vector => exact irq_inv hs h
  | nmi vector => exact nmi_inv hs h
  | interruptReturn => exact hostReturn_inv hs h

end Sys2Proof.Machine
end

section
/-! The dispatch table (R66 to R69, R86): its 152 keys, the decoder on them, and that a handler does not see its key. -/

namespace Sys2Proof

/-- Settles O5: the decoder matches the whole key. -/
theorem decodeOfEncode : Obligations.DecodeOfEncode := fun i hi => (decode_eq_ok_iff_encode (encode i) i).2 ⟨hi, rfl⟩

/-- Settles O8: the words that are keys are keys of well-formed instructions; the others run into one check each. -/
theorem sampleKeysDecode : Obligations.SampleKeysDecode := by
  have hkey {w : Key} {i : Instr} (hi : i.wellFormed = true) (hw : encode i = w) : decode w = .ok i :=
    (decode_eq_ok_iff_encode w i).2 ⟨hi, hw⟩
  exact ⟨hkey rfl encode_nop, hkey rfl encode_hlt, hkey rfl (by decide), hkey rfl (by decide), hkey rfl (by decide),
    hkey rfl (by decide), hkey rfl (by decide), hkey rfl (by decide), rfl, rfl, rfl, rfl⟩

/-! ## The table as a list -/

/-- The entries of one mnemonic: one for each combination in its menu (R67). -/
def Mnemonic.entries (m : Mnemonic) : List Instr := (Config.params.menu m).map fun c => m.instr c.1 c.2

/-- The dispatch table (R68). -/
def dispatchTable : List Instr := Mnemonic.all.flatMap Mnemonic.entries

/-- The lengths of the menus, summed over the mnemonics (R66, R67). -/
theorem dispatchTable_length : dispatchTable.length = 152 := by
  rw [dispatchTable, List.length_flatMap]
  simp only [Mnemonic.entries, List.length_map]
  rfl

theorem Mnemonic.mem_all (m : Mnemonic) : m ∈ Mnemonic.all := by
  cases m <;> decide

theorem Mnemonic.mnemonic_of_mem_entries {m : Mnemonic} {i : Instr} (h : i ∈ m.entries) : i.mnemonic = m := by
  obtain ⟨c, -, rfl⟩ := List.mem_map.1 h
  exact m.mnemonic_instr ..

/-- No menu has a combination whose selectors the mnemonic drops (R67). -/
theorem Mnemonic.selectors_instr_of_mem_menu {m : Mnemonic} {c : Mode × Mode} (h : c ∈ Config.params.menu m) :
    (m.instr c.1 c.2).selectors = c := by
  revert c
  cases m <;> decide

theorem Mnemonic.mem_entries (m : Mnemonic) (i : Instr) : i ∈ m.entries ↔ i.mnemonic = m ∧ i.wellFormed = true := by
  constructor
  · intro h
    obtain ⟨c, hc, rfl⟩ := List.mem_map.1 h
    refine ⟨m.mnemonic_instr .., List.contains_iff_mem.2 ?_⟩
    rwa [Instr.menu, m.mnemonic_instr, selectors_instr_of_mem_menu hc]
  · rintro ⟨rfl, hi⟩
    exact List.mem_map.2 ⟨i.selectors, List.contains_iff_mem.1 hi, i.instr_mnemonic_selectors⟩

theorem mem_dispatchTable (i : Instr) : i ∈ dispatchTable ↔ i.wellFormed = true := by
  simp only [dispatchTable, List.mem_flatMap, Mnemonic.mem_all, true_and, Mnemonic.mem_entries, exists_eq_left']

/-- Two mnemonics share no entry, and within one mnemonic the selectors tell the entries apart. -/
theorem dispatchTable_nodup : dispatchTable.Nodup := by
  refine List.nodup_flatMap.2 ⟨fun m _ => ?_, ?_⟩
  · refine List.Nodup.map_on (fun c hc d hd h => ?_) (by cases m <;> decide)
    calc c = (m.instr c.1 c.2).selectors := (Mnemonic.selectors_instr_of_mem_menu hc).symm
      _ = (m.instr d.1 d.2).selectors := congrArg _ h
      _ = d := Mnemonic.selectors_instr_of_mem_menu hd
  · have hall : Mnemonic.all.Nodup := by decide
    refine hall.imp fun hne i hi hj => hne ?_
    exact (Mnemonic.mnemonic_of_mem_entries hi).symm.trans (Mnemonic.mnemonic_of_mem_entries hj)

/-- The keys of the table's instructions tell them apart (R69). -/
theorem encode_injective {i j : Instr} (hi : i.wellFormed = true) (hj : j.wellFormed = true) (h : encode i = encode j) :
    i = j :=
  Except.ok.inj ((decodeOfEncode i hi).symm.trans ((congrArg decode h).trans (decodeOfEncode j hj)))

/-- Settles O7: the keys of the table. -/
theorem dispatchTableHas152Keys : Obligations.DispatchTableHas152Keys := by
  refine ⟨dispatchTable.map encode, by rw [List.length_map, dispatchTable_length],
    List.Nodup.map_on (fun i hi j hj => encode_injective ((mem_dispatchTable i).1 hi) ((mem_dispatchTable j).1 hj))
      dispatchTable_nodup, fun w => ?_⟩
  simp only [List.mem_map, mem_dispatchTable, Option.isSome_iff_exists, lookup_eq_some, decode_eq_ok_iff_encode]

namespace Machine

/-- A handler does not see the selectors of its key: any others would do (R86). -/
theorem exec_eq_of_mnemonic (i : Instr) (s : State) : exec i s = exec (i.mnemonic.instr .imm .imm) s := by
  cases i <;> rfl

end Machine

/-- Settles O9: the opcode determines the mnemonic, and the mnemonic the handler. -/
theorem entriesOfOneMnemonicAgree : Obligations.EntriesOfOneMnemonicAgree := by
  intro i j s h
  have hm : i.mnemonic = j.mnemonic :=
    Option.some.inj <| calc
      some i.mnemonic = Mnemonic.ofOpcode i.opcode := (Mnemonic.ofOpcode_opcode _).symm
      _ = Mnemonic.ofOpcode j.opcode := congrArg _ h
      _ = some j.mnemonic := Mnemonic.ofOpcode_opcode _
  rw [Machine.exec_eq_of_mnemonic i, Machine.exec_eq_of_mnemonic j, hm]

end Sys2Proof
end

section
/-! The shifts and rotates (R121 to R129): `n` one-bit steps give the closed forms of the rules, for every `n`. -/

namespace Sys2Proof.Machine.Alu

/-! ## Repetition -/

/-- The last of `n + 1` steps. -/
theorem repeatBit_succ (f : Word × Bool → Word × Bool) (n : Nat) (x : Word × Bool) :
    repeatBit f (n + 1) x = f (repeatBit f n x) := by
  induction n generalizing x with
  | zero => rfl
  | succ n ih => exact ih (f x)

/-- The loop of a one-bit step that shifts the value by `g`, one place at a time, and whose carry is a bit `b` of the value
shifted last. -/
theorem repeatBit_eq {f : Word × Bool → Word × Bool} {g : Word → Nat → Word} {b : Word → Bool}
    (hf : ∀ x, f x = (g x.1 1, b x.1)) (h0 : ∀ a, g a 0 = a) (hs : ∀ a n, g a (n + 1) = g (g a n) 1)
    (n : Nat) (a : Word) (c : Bool) :
    repeatBit f n (a, c) = if n = 0 then (a, c) else (g a n, b (g a (n - 1))) := by
  have hval (n : Nat) : (repeatBit f n (a, c)).1 = g a n := by
    induction n with
    | zero => exact (h0 a).symm
    | succ n ih => rw [repeatBit_succ, hf, ih, ← hs]
  cases n with
  | zero => rfl
  | succ n => rw [repeatBit_succ, hf, hval, if_neg n.succ_ne_zero, ← hs, Nat.add_sub_cancel]

/-! ## Shifts -/

theorem repeatBit_shlBit (n : Nat) (a : Word) (c : Bool) :
    repeatBit shlBit n (a, c) = if n = 0 then (a, c) else (a <<< n, (a <<< (n - 1)).getLsbD 63) :=
  repeatBit_eq (g := fun a n => a <<< n) (b := fun a => a.getLsbD 63) (fun _ => rfl) BitVec.shiftLeft_zero
    (fun a n => a.shiftLeft_add n 1) n a c

theorem repeatBit_shrBit (n : Nat) (a : Word) (c : Bool) :
    repeatBit shrBit n (a, c) = if n = 0 then (a, c) else (a >>> n, (a >>> (n - 1)).getLsbD 0) :=
  repeatBit_eq (g := fun a n => a >>> n) (b := fun a => a.getLsbD 0) (fun _ => rfl) BitVec.ushiftRight_zero
    (fun a n => a.shiftRight_add n 1) n a c

/-- The sign bit kept is a signed shift by one (R125). -/
theorem sarBit_value (a : Word) : (a >>> 1) ||| (a &&& 0x8000000000000000) = a.sshiftRight 1 := by
  have hsign : (0x8000000000000000 : Word) = BitVec.twoPow 64 63 := by decide
  refine BitVec.eq_of_getLsbD_eq fun i hi => ?_
  rw [BitVec.getLsbD_or, BitVec.getLsbD_ushiftRight, BitVec.getLsbD_and, hsign, BitVec.getLsbD_twoPow,
    BitVec.getLsbD_sshiftRight, BitVec.msb_eq_getLsbD_last]
  by_cases h : i = 63
  · subst h
    simp
  · have h63 : ¬ 63 = i := fun e => h e.symm
    have hlt : 1 + i < 64 := by omega
    simp [hi, h63, hlt]

theorem repeatBit_sarBit (n : Nat) (a : Word) (c : Bool) :
    repeatBit sarBit n (a, c) = if n = 0 then (a, c) else (a.sshiftRight n, (a.sshiftRight (n - 1)).getLsbD 0) :=
  repeatBit_eq (f := sarBit) (g := fun a n => a.sshiftRight n) (b := fun a => a.getLsbD 0)
    (fun x => Prod.ext (sarBit_value x.1) rfl) (fun _ => BitVec.sshiftRight_zero) (fun _ _ => BitVec.sshiftRight_add) n a c

/-- From 64 on a signed shift leaves the sign in every bit (R125). -/
theorem sshiftRight_of_le (a : Word) {n : Nat} (h : 64 ≤ n) :
    a.sshiftRight n = if a.getLsbD 63 then BitVec.allOnes 64 else 0 := by
  refine BitVec.eq_of_getLsbD_eq fun i hi => ?_
  have hn : ¬ n + i < 64 := by omega
  rw [BitVec.getLsbD_sshiftRight, BitVec.msb_eq_getLsbD_last, if_neg hn]
  cases a.getLsbD 63 <;> simp [hi, -BitVec.reduceAllOnes]

/-- Below 64 a signed shift is an unsigned one with the sign in the places left free (R125). -/
theorem sshiftRight_of_lt (a : Word) {n : Nat} (h : n < 64) :
    a.sshiftRight n = if a.getLsbD 63 then (a >>> n) ||| (BitVec.allOnes 64 <<< (64 - n)) else a >>> n := by
  refine BitVec.eq_of_getLsbD_eq fun i hi => ?_
  rw [BitVec.getLsbD_sshiftRight, BitVec.msb_eq_getLsbD_last]
  by_cases hni : n + i < 64
  · have hfree : i < 64 - n := by omega
    cases a.getLsbD 63 <;> simp [hi, hni, hfree]
  · have hfree : ¬ i < 64 - n := by omega
    have hout : a.getLsbD (n + i) = false := a.getLsbD_of_ge _ (by omega)
    cases a.getLsbD 63 <;> simp [hi, hni, hfree, hout, -BitVec.reduceAllOnes]

/-! ## The tables of the shifts, for `n` from 1 on -/

theorem shl_table (a : Word) {n : Nat} (h0 : n ≠ 0) :
    (a <<< n, (a <<< (n - 1)).getLsbD 63) =
      if n ≤ 63 then (a <<< n, a.getLsbD (64 - n)) else if n = 64 then (0, a.getLsbD 0) else (0, false) := by
  have hcarry : (a <<< (n - 1)).getLsbD 63 = if n ≤ 64 then a.getLsbD (64 - n) else false := by
    rw [BitVec.getLsbD_shiftLeft]
    split_ifs with h
    · simp [show ¬ 63 < n - 1 by omega, show 63 - (n - 1) = 64 - n by omega]
    · simp [show 63 < n - 1 by omega]
  rw [hcarry]
  obtain h63 | rfl | h64 : n ≤ 63 ∨ n = 64 ∨ 64 < n := by omega
  · rw [if_pos (by omega), if_pos h63]
  · exact Prod.ext (BitVec.shiftLeft_eq_zero le_rfl) rfl
  · rw [if_neg (by omega), if_neg (by omega), if_neg (by omega), BitVec.shiftLeft_eq_zero (by omega)]
    rfl

theorem shr_table (a : Word) (n : Nat) :
    (a >>> n, (a >>> (n - 1)).getLsbD 0) =
      if n ≤ 63 then (a >>> n, a.getLsbD (n - 1)) else if n = 64 then (0, a.getLsbD 63) else (0, false) := by
  rw [BitVec.getLsbD_ushiftRight, Nat.add_zero]
  split_ifs with h63 h64
  · rfl
  · subst h64
    exact Prod.ext (BitVec.ushiftRight_eq_zero le_rfl) rfl
  · rw [BitVec.ushiftRight_eq_zero (x := a) (by omega), a.getLsbD_of_ge _ (by omega)]
    rfl

theorem sar_table (a : Word) (n : Nat) :
    (a.sshiftRight n, (a.sshiftRight (n - 1)).getLsbD 0) =
      if n ≤ 63 then
        (if a.getLsbD 63 then (a >>> n) ||| (BitVec.allOnes 64 <<< (64 - n)) else a >>> n, a.getLsbD (n - 1))
      else (if a.getLsbD 63 then BitVec.allOnes 64 else 0, a.getLsbD 63) := by
  have hcarry : (a.sshiftRight (n - 1)).getLsbD 0 = if n ≤ 63 then a.getLsbD (n - 1) else a.getLsbD 63 := by
    rw [BitVec.getLsbD_sshiftRight, BitVec.msb_eq_getLsbD_last, Nat.add_zero]
    by_cases h63 : n ≤ 63
    · simp [h63, show n - 1 < 64 by omega]
    · by_cases h64 : n = 64
      · simp [h64]
      · simp [h63, show ¬ n - 1 < 64 by omega]
  rw [hcarry]
  split_ifs with h63 hs hs
  · rw [sshiftRight_of_lt a (by omega), if_pos hs]
  · rw [sshiftRight_of_lt a (by omega), if_neg hs]
  · rw [sshiftRight_of_le a (by omega), if_pos hs]
  · rw [sshiftRight_of_le a (by omega), if_neg hs]

/-- Settles O43: the loops are shifts by `n`, and the tables are what those shifts give in each range of `n`. -/
theorem shiftLoopsHaveClosedForms : Obligations.ShiftLoopsHaveClosedForms := by
  intro a c n
  rw [repeatBit_shlBit, repeatBit_shrBit, repeatBit_sarBit]
  by_cases h0 : n = 0
  · simp only [h0, if_true, and_self]
  · rw [shl_table a h0, shr_table a n, sar_table a n]
    simp only [h0, if_false, and_self]

/-- The conditions of the rules on the count, which is a word, as conditions on a number. -/
theorem count_eq_iff (n : Word) {k : Nat} (hk : k < 2 ^ 64) : n = BitVec.ofNat 64 k ↔ n.toNat = k := by
  rw [BitVec.toNat_eq_nat, and_iff_right hk]

theorem shl_eq_repeatBit (a n : Word) (c : Bool) : shl a n c = repeatBit shlBit n.toNat (a, c) := by
  have h0 : n = 0 ↔ n.toNat = 0 := count_eq_iff n (by decide)
  have h64 : n = 64 ↔ n.toNat = 64 := count_eq_iff n (by decide)
  simp only [(shiftLoopsHaveClosedForms a c n.toNat).1, shl, h0, h64, Nat.lt_succ_iff]

theorem shr_eq_repeatBit (a n : Word) (c : Bool) : shr a n c = repeatBit shrBit n.toNat (a, c) := by
  have h0 : n = 0 ↔ n.toNat = 0 := count_eq_iff n (by decide)
  have h64 : n = 64 ↔ n.toNat = 64 := count_eq_iff n (by decide)
  simp only [(shiftLoopsHaveClosedForms a c n.toNat).2.1, shr, h0, h64, Nat.lt_succ_iff]

theorem sar_eq_repeatBit (a n : Word) (c : Bool) : sar a n c = repeatBit sarBit n.toNat (a, c) := by
  have h0 : n = 0 ↔ n.toNat = 0 := count_eq_iff n (by decide)
  simp only [(shiftLoopsHaveClosedForms a c n.toNat).2.2, sar, h0, Nat.lt_succ_iff]
  split_ifs with hz h63 hs
  · rfl
  · rw [sshiftRight_of_lt a (by omega), if_pos hs]
  · rw [sshiftRight_of_lt a (by omega), if_neg hs]
  all_goals rfl

/-! ## Rotates -/

theorem getLsbD_carryWord (c : Bool) (i : Nat) : (carryWord c).getLsbD i = (c && decide (i = 0)) := by
  cases c with
  | false => exact BitVec.getLsbD_zero
  | true => exact BitVec.getLsbD_one.trans (by simp)

/-- Rotating by `n + 1` is rotating by `n` and then by one place. -/
theorem rotateLeft_succ {w : Nat} (x : BitVec w) (n : Nat) : x.rotateLeft (n + 1) = (x.rotateLeft n).rotateLeft 1 := by
  refine BitVec.eq_of_getMsbD_eq fun i hi => ?_
  have hlt : (1 + i) % w < w := Nat.mod_lt _ (by omega)
  rw [BitVec.getMsbD_rotateLeft, BitVec.getMsbD_rotateLeft, BitVec.getMsbD_rotateLeft, Nat.add_mod_mod, Nat.add_assoc]
  simp [hlt]

theorem getLsbD_rotateRight_mod {w : Nat} (x : BitVec w) (n : Nat) {i : Nat} (hi : i < w) :
    (x.rotateRight n).getLsbD i = x.getLsbD ((n + i) % w) := by
  have hn : n % w < w := Nat.mod_lt _ (by omega)
  rw [BitVec.getLsbD_rotateRight, ← Nat.mod_add_mod]
  generalize n % w = k at hn ⊢
  by_cases h : i < w - k
  · rw [Nat.mod_eq_of_lt (by omega)]
    simp [h]
  · rw [Nat.mod_eq_sub_mod (by omega), Nat.mod_eq_of_lt (by omega)]
    simp [h, hi, show k + i - w = i - (w - k) by omega]

theorem rotateRight_succ {w : Nat} (x : BitVec w) (n : Nat) : x.rotateRight (n + 1) = (x.rotateRight n).rotateRight 1 := by
  refine BitVec.eq_of_getLsbD_eq fun i hi => ?_
  have hlt : (1 + i) % w < w := Nat.mod_lt _ (by omega)
  rw [getLsbD_rotateRight_mod _ _ hi, getLsbD_rotateRight_mod _ _ hi, getLsbD_rotateRight_mod _ _ hlt, Nat.add_mod_mod,
    Nat.add_assoc]

theorem rotateLeft_zero {w : Nat} (x : BitVec w) : x.rotateLeft 0 = x := by
  rw [BitVec.rotateLeft_def, Nat.zero_mod, Nat.sub_zero, BitVec.ushiftRight_eq_zero le_rfl, BitVec.shiftLeft_zero,
    BitVec.or_zero]

theorem rotateRight_zero {w : Nat} (x : BitVec w) : x.rotateRight 0 = x := by
  rw [BitVec.rotateRight_def, Nat.zero_mod, Nat.sub_zero, BitVec.shiftLeft_eq_zero le_rfl, BitVec.ushiftRight_zero,
    BitVec.or_zero]

/-- The bit that leaves at the top and enters at the bottom (R126). -/
theorem rolBit_value (a : Word) : (a <<< 1) ||| carryWord (a.getLsbD 63) = a.rotateLeft 1 := by
  refine BitVec.eq_of_getLsbD_eq fun i hi => ?_
  rw [BitVec.getLsbD_or, BitVec.getLsbD_shiftLeft, getLsbD_carryWord, BitVec.getLsbD_rotateLeft]
  by_cases h : i = 0
  · simp [h]
  · simp [h, hi, show ¬ i < 1 by omega]

/-- The bit that leaves at the bottom and enters at the top (R127). -/
theorem rorBit_value (a : Word) : (a >>> 1) ||| (carryWord (a.getLsbD 0) <<< 63) = a.rotateRight 1 := by
  refine BitVec.eq_of_getLsbD_eq fun i hi => ?_
  rw [BitVec.getLsbD_or, BitVec.getLsbD_ushiftRight, BitVec.getLsbD_shiftLeft, getLsbD_carryWord,
    BitVec.getLsbD_rotateRight]
  by_cases h : i = 63
  · simp [h]
  · simp [hi, show i < 63 by omega]

theorem repeatBit_rolBit (n : Nat) (a : Word) (c : Bool) :
    repeatBit rolBit n (a, c) = if n = 0 then (a, c) else (a.rotateLeft n, (a.rotateLeft (n - 1)).getLsbD 63) :=
  repeatBit_eq (f := rolBit) (g := fun a n => a.rotateLeft n) (b := fun a => a.getLsbD 63)
    (fun x => Prod.ext (rolBit_value x.1) rfl) rotateLeft_zero rotateLeft_succ n a c

theorem repeatBit_rorBit (n : Nat) (a : Word) (c : Bool) :
    repeatBit rorBit n (a, c) = if n = 0 then (a, c) else (a.rotateRight n, (a.rotateRight (n - 1)).getLsbD 0) :=
  repeatBit_eq (f := rorBit) (g := fun a n => a.rotateRight n) (b := fun a => a.getLsbD 0)
    (fun x => Prod.ext (rorBit_value x.1) rfl) rotateRight_zero rotateRight_succ n a c

/-- The carry of a left rotate is the bit that entered last, the lowest of the result (R126). -/
theorem rol_carry (a : Word) {n : Nat} (h0 : n ≠ 0) : (a.rotateLeft (n - 1)).getLsbD 63 = (a.rotateLeft n).getLsbD 0 := by
  obtain ⟨k, rfl⟩ := Nat.exists_eq_succ_of_ne_zero h0
  have hbit (x : Word) : (x.rotateLeft 1).getLsbD 0 = x.getLsbD 63 := BitVec.getLsbD_rotateLeft
  rw [rotateLeft_succ, hbit, Nat.succ_sub_one]

/-- The carry of a right rotate is the bit that entered last, the highest of the result (R127). -/
theorem ror_carry (a : Word) {n : Nat} (h0 : n ≠ 0) : (a.rotateRight (n - 1)).getLsbD 0 = (a.rotateRight n).getLsbD 63 := by
  obtain ⟨k, rfl⟩ := Nat.exists_eq_succ_of_ne_zero h0
  have hbit (x : Word) : (x.rotateRight 1).getLsbD 63 = x.getLsbD 0 := BitVec.getLsbD_rotateRight
  rw [rotateRight_succ, hbit, Nat.succ_sub_one]

/-! ## Rotates through the carry: 65 bits -/

theorem getLsbD_withCarry (a : Word) (c : Bool) (i : Nat) :
    (withCarry a c).getLsbD i = if i < 64 then a.getLsbD i else (c && decide (i = 64)) := by
  rw [withCarry, BitVec.getLsbD_append]
  split_ifs with h
  · rfl
  · have h64 : i - 64 = 0 ↔ i = 64 := by omega
    simp only [BitVec.getLsbD_ofBool, Bool.and_comm, h64]

@[simp] theorem splitCarry_withCarry (a : Word) (c : Bool) : splitCarry (withCarry a c) = (a, c) := by
  refine Prod.ext BitVec.extractLsb'_append_eq_right ?_
  exact (getLsbD_withCarry a c 64).trans (by simp)

/-- One step of `rcl` rotates the 65 bits left by one place (R128). -/
theorem withCarry_rclBit (x : Word × Bool) : withCarry (rclBit x).1 (rclBit x).2 = (withCarry x.1 x.2).rotateLeft 1 := by
  refine BitVec.eq_of_getLsbD_eq fun i hi => ?_
  simp only [BitVec.getLsbD_rotateLeft, getLsbD_withCarry, rclBit, BitVec.getLsbD_or, BitVec.getLsbD_shiftLeft,
    getLsbD_carryWord]
  obtain rfl | rfl | ⟨h0, h64⟩ : i = 0 ∨ i = 64 ∨ (0 < i ∧ i < 64) := by omega
  · simp
  · simp
  · simp [h64, hi, show ¬ i < 1 by omega, show i ≠ 0 by omega, show i - 1 < 64 by omega]

/-- One step of `rcr` rotates the 65 bits right by one place (R129). -/
theorem withCarry_rcrBit (x : Word × Bool) : withCarry (rcrBit x).1 (rcrBit x).2 = (withCarry x.1 x.2).rotateRight 1 := by
  refine BitVec.eq_of_getLsbD_eq fun i hi => ?_
  simp only [BitVec.getLsbD_rotateRight, getLsbD_withCarry, rcrBit, BitVec.getLsbD_or, BitVec.getLsbD_ushiftRight,
    BitVec.getLsbD_shiftLeft, getLsbD_carryWord]
  obtain rfl | rfl | h63 : i = 63 ∨ i = 64 ∨ i < 63 := by omega
  · simp
  · simp
  · simp [h63, show i < 64 by omega, show 1 + i < 64 by omega]

/-- The loop of a one-bit step that rotates the 65 bits by `g`, one place at a time. -/
theorem repeatBit_eq_splitCarry {f : Word × Bool → Word × Bool} {g : BitVec 65 → Nat → BitVec 65}
    (hf : ∀ x, withCarry (f x).1 (f x).2 = g (withCarry x.1 x.2) 1) (h0 : ∀ x, g x 0 = x)
    (hs : ∀ x n, g x (n + 1) = g (g x n) 1) (n : Nat) (a : Word) (c : Bool) :
    repeatBit f n (a, c) = splitCarry (g (withCarry a c) n) := by
  have hloop : withCarry (repeatBit f n (a, c)).1 (repeatBit f n (a, c)).2 = g (withCarry a c) n := by
    induction n with
    | zero => exact (h0 _).symm
    | succ n ih => rw [repeatBit_succ, hf, ih, ← hs]
  rw [← hloop, splitCarry_withCarry]

theorem repeatBit_rclBit (n : Nat) (a : Word) (c : Bool) :
    repeatBit rclBit n (a, c) = splitCarry ((withCarry a c).rotateLeft n) :=
  repeatBit_eq_splitCarry (g := BitVec.rotateLeft) withCarry_rclBit rotateLeft_zero rotateLeft_succ n a c

theorem repeatBit_rcrBit (n : Nat) (a : Word) (c : Bool) :
    repeatBit rcrBit n (a, c) = splitCarry ((withCarry a c).rotateRight n) :=
  repeatBit_eq_splitCarry (g := BitVec.rotateRight) withCarry_rcrBit rotateRight_zero rotateRight_succ n a c

/-! ## The closed forms of the rotates -/

theorem rotateLeft_eq_ite (a : Word) (n : Nat) :
    a.rotateLeft n = if n % 64 = 0 then a else (a <<< (n % 64)) ||| (a >>> (64 - n % 64)) := by
  rw [← BitVec.rotateLeft_mod_eq_rotateLeft]
  split_ifs with h
  · rw [h, rotateLeft_zero]
  · rw [BitVec.rotateLeft_def, Nat.mod_mod]

theorem rotateRight_eq_ite (a : Word) (n : Nat) :
    a.rotateRight n = if n % 64 = 0 then a else (a >>> (n % 64)) ||| (a <<< (64 - n % 64)) := by
  rw [← BitVec.rotateRight_mod_eq_rotateRight]
  split_ifs with h
  · rw [h, rotateRight_zero]
  · rw [BitVec.rotateRight_def, Nat.mod_mod]

/-- Settles O44: the loops are rotates by `n`, of the value or of the 65 bits with the carry. -/
theorem rotateLoopsHaveClosedForms : Obligations.RotateLoopsHaveClosedForms := by
  intro a c n
  refine ⟨?zero, ?rol, ?ror, ?through⟩
  case zero =>
    rintro rfl
    exact ⟨rfl, rfl⟩
  case rol =>
    rintro r rfl h0
    rw [repeatBit_rolBit, if_neg h0, rol_carry a h0, rotateLeft_eq_ite]
  case ror =>
    rintro r rfl h0
    rw [repeatBit_rorBit, if_neg h0, ror_carry a h0, rotateRight_eq_ite]
  case through =>
    rintro x rfl
    constructor
    · rintro y rfl
      rw [repeatBit_rclBit, BitVec.rotateLeft_def]
      rfl
    · rintro y rfl
      rw [repeatBit_rcrBit, BitVec.rotateRight_def]
      rfl

theorem rol_eq_repeatBit (a n : Word) (c : Bool) : rol a n c = repeatBit rolBit n.toNat (a, c) := by
  have h0 : n = 0 ↔ n.toNat = 0 := count_eq_iff n (by decide)
  rw [repeatBit_rolBit, rol]
  simp only [h0, BitVec.rotateLeft_mod_eq_rotateLeft]
  split_ifs with hz
  · rfl
  · rw [rol_carry a hz]

theorem ror_eq_repeatBit (a n : Word) (c : Bool) : ror a n c = repeatBit rorBit n.toNat (a, c) := by
  have h0 : n = 0 ↔ n.toNat = 0 := count_eq_iff n (by decide)
  rw [repeatBit_rorBit, ror]
  simp only [h0, BitVec.rotateRight_mod_eq_rotateRight]
  split_ifs with hz
  · rfl
  · rw [ror_carry a hz]

theorem rcl_eq_repeatBit (a n : Word) (c : Bool) : rcl a n c = repeatBit rclBit n.toNat (a, c) := by
  rw [repeatBit_rclBit, rcl, BitVec.rotateLeft_mod_eq_rotateLeft]

theorem rcr_eq_repeatBit (a n : Word) (c : Bool) : rcr a n c = repeatBit rcrBit n.toNat (a, c) := by
  rw [repeatBit_rcrBit, rcr, BitVec.rotateRight_mod_eq_rotateRight]

end Sys2Proof.Machine.Alu
end

section
/-! What each handler does, whole, on RAM64: with its operands readable and writable, and where it fails (42_arithmetic.md
to 47_block_copy.md, R154 to R158). -/

namespace Sys2Proof.Machine

/-! ## The end of a step -/

theorem exec_of_ok {i : Instr} {s s' : State} (hb : s.bus = .bound) (h : handlerOf Bus.ram64 i s = .ok () s') :
    exec i s = .next s'.done := by
  rw [exec_eq, execute_eq _ _ hb, h]
  rfl

theorem exec_of_raised {i : Instr} {s s' : State} {f : Failure} (hb : s.bus = .bound)
    (h : handlerOf Bus.ram64 i s = .raised f s') : exec i s = .next (s'.takeFailure f) := by
  rw [exec_eq, execute_eq _ _ hb, h]

/-! ## A copy sees nothing of the log -/

@[simp] theorem State.note_copied (s : State) (ts : List Transaction) (u : UnitSize) :
    (s.note ts).copied u = (s.copied u).note ts := rfl

/-! ## The two reads that begin most handlers -/

/-- Both operands read, in order, and then the rest of the handler. -/
def readBoth (next : Word → Word → State → Result Unit) (s : State) : Result Unit :=
  (opRead Bus.ram64 .one s).andThen fun a s1 => (opRead Bus.ram64 .two s1).andThen fun b s2 => next a b s2

section
variable {s : State} {l1 l2 : Location} {f : Failure} (next : Word → Word → State → Result Unit)

theorem readBoth_of_ok (h1 : s.location .one = .ok l1) (h2 : s.location .two = .ok l2) :
    readBoth next s = next (s.valueAt l1) (s.valueAt l2) (s.note (s.readsTraffic l1 l2)) := by
  have h2' : (s.note (s.readTraffic .one l1)).location .two = .ok l2 := h2
  rw [readBoth, opRead_of_ok h1, Result.andThen_ok, opRead_of_ok h2', Result.andThen_ok, State.note_valueAt,
    State.note_readTraffic, State.note_note]
  rfl

theorem readBoth_of_error_one (h1 : s.location .one = .error f) :
    readBoth next s = .raised f (s.note (s.slotTraffic .one)) := by
  rw [readBoth, opRead_of_error h1, Result.andThen_raised]

theorem readBoth_of_error_two (h1 : s.location .one = .ok l1) (h2 : s.location .two = .error f) :
    readBoth next s = .raised f (s.note (s.readTraffic .one l1 ++ s.slotTraffic .two)) := by
  have h2' : (s.note (s.readTraffic .one l1)).location .two = .error f := h2
  rw [readBoth, opRead_of_ok h1, Result.andThen_ok, opRead_of_error h2', Result.andThen_raised, State.note_slotTraffic,
    State.note_note]

end

/-- A write to operand `k` after some transactions that changed nothing. -/
theorem opWrite_note_of_ok {k : Operand} {s : State} {l : Location} {d : Word} (ts : List Transaction)
    (h : s.location k = .ok l) (hw : l.writable = true) :
    opWrite Bus.ram64 k d (s.note ts) = .ok () ((s.store l d).note (ts ++ s.writeTraffic k l d)) := by
  have h' : (s.note ts).location k = .ok l := h
  rw [opWrite_of_ok h' hw, State.note_store, State.note_writeTraffic, State.note_note]

theorem opWrite_note_of_literal {k : Operand} {s : State} {l : Location} {d : Word} (ts : List Transaction)
    (h : s.location k = .ok l) (hw : l.writable = false) :
    opWrite Bus.ram64 k d (s.note ts) = .raised (.invalidAddressingMode 0) (s.note (ts ++ s.slotTraffic k)) := by
  have h' : (s.note ts).location k = .ok l := h
  rw [opWrite_of_literal h' hw, State.note_slotTraffic, State.note_note]

theorem opWrite_note_of_error {k : Operand} {s : State} {f : Failure} {d : Word} (ts : List Transaction)
    (h : s.location k = .error f) :
    opWrite Bus.ram64 k d (s.note ts) = .raised f (s.note (ts ++ s.slotTraffic k)) := by
  have h' : (s.note ts).location k = .error f := h
  rw [opWrite_of_error h', State.note_slotTraffic, State.note_note]

/-! ## The handlers with operands that resolve -/

section
variable {s : State} {l1 l2 : Location} (h1 : s.location .one = .ok l1) (h2 : s.location .two = .ok l2)
include h1

theorem unaryHandler_of_ok (f : Word → Word) (hw : l1.writable = true) :
    unaryHandler Bus.ram64 f s = .ok () ((s.store l1 (f (s.valueAt l1))).note
      (s.readTraffic .one l1 ++ s.writeTraffic .one l1 (f (s.valueAt l1)))) := by
  rw [unaryHandler, opRead_of_ok h1, Result.andThen_ok, opWrite_note_of_ok _ h1 hw]

theorem unaryHandler_of_literal (f : Word → Word) (hw : l1.writable = false) :
    unaryHandler Bus.ram64 f s =
      .raised (.invalidAddressingMode 0) (s.note (s.readTraffic .one l1 ++ s.slotTraffic .one)) := by
  rw [unaryHandler, opRead_of_ok h1, Result.andThen_ok, opWrite_note_of_literal _ h1 hw]

include h2

theorem updateHandler_of_ok (f : Word → Word → Bool → Word) (hw : l1.writable = true) :
    updateHandler Bus.ram64 f s = .ok ()
      ((s.store l1 (f (s.valueAt l1) (s.valueAt l2) (s.getFlag .carry))).note
        (s.updateTraffic l1 l2 (f (s.valueAt l1) (s.valueAt l2) (s.getFlag .carry)))) :=
  (readBoth_of_ok _ h1 h2).trans (opWrite_note_of_ok _ h1 hw)

theorem updateHandler_of_literal (f : Word → Word → Bool → Word) (hw : l1.writable = false) :
    updateHandler Bus.ram64 f s =
      .raised (.invalidAddressingMode 0) (s.note (s.readsTraffic l1 l2 ++ s.slotTraffic .one)) :=
  (readBoth_of_ok _ h1 h2).trans (opWrite_note_of_literal _ h1 hw)

/-- The value and the carry `x` that the shift answers: the value is stored, then the carry goes to `C` (R121). -/
theorem shiftHandler_of_ok (f : Word → Word → Bool → Word × Bool) (hw : l1.writable = true) {x : Word × Bool}
    (hx : f (s.valueAt l1) (s.valueAt l2) (s.getFlag .carry) = x) :
    shiftHandler Bus.ram64 f s = .ok ()
      (((s.store l1 x.1).setFlag .carry x.2).note (s.updateTraffic l1 l2 x.1)) := by
  subst hx
  refine (readBoth_of_ok _ h1 h2).trans ?_
  rw [State.note_getFlag, opWrite_note_of_ok _ h1 hw, Result.andThen_ok, State.note_setFlag]
  rfl

theorem shiftHandler_of_literal (f : Word → Word → Bool → Word × Bool) (hw : l1.writable = false) :
    shiftHandler Bus.ram64 f s =
      .raised (.invalidAddressingMode 0) (s.note (s.readsTraffic l1 l2 ++ s.slotTraffic .one)) := by
  refine (readBoth_of_ok _ h1 h2).trans ?_
  rw [opWrite_note_of_literal _ h1 hw, Result.andThen_raised]

theorem compareHandler_of_ok (z n : Word → Word → Bool) :
    compareHandler Bus.ram64 z n s = .ok ()
      ((s.setCompareFlags (z (s.valueAt l1) (s.valueAt l2)) (n (s.valueAt l1) (s.valueAt l2))).note
        (s.readsTraffic l1 l2)) :=
  readBoth_of_ok _ h1 h2

theorem compareExchangeHandler_of_ok (he : s.valueAt l1 = s.get .r0) (hw : l1.writable = true) :
    compareExchangeHandler Bus.ram64 s = .ok ()
      ((s.store l1 (s.valueAt l2)).note (s.updateTraffic l1 l2 (s.valueAt l2))) := by
  refine (readBoth_of_ok _ h1 h2).trans ?_
  rw [State.note_get, if_pos he, opWrite_note_of_ok _ h1 hw]
  rfl

theorem compareExchangeHandler_of_literal (he : s.valueAt l1 = s.get .r0) (hw : l1.writable = false) :
    compareExchangeHandler Bus.ram64 s =
      .raised (.invalidAddressingMode 0) (s.note (s.readsTraffic l1 l2 ++ s.slotTraffic .one)) := by
  refine (readBoth_of_ok _ h1 h2).trans ?_
  rw [State.note_get, if_pos he, opWrite_note_of_literal _ h1 hw]

theorem compareExchangeHandler_of_ne (hne : s.valueAt l1 ≠ s.get .r0) :
    compareExchangeHandler Bus.ram64 s = .ok () (s.note (s.readsTraffic l1 l2)) := by
  refine (readBoth_of_ok _ h1 h2).trans ?_
  rw [State.note_get, if_neg hne]

theorem exchangeHandler_of_literal (f : Word → Word → Word) (hw : l1.writable = false) :
    exchangeHandler Bus.ram64 f s =
      .raised (.invalidAddressingMode 0) (s.note (s.readsTraffic l1 l2 ++ s.slotTraffic .one)) := by
  refine (readBoth_of_ok _ h1 h2).trans ?_
  rw [opWrite_note_of_literal _ h1 hw, Result.andThen_raised]

/-- After the first write of an exchange the second is tried, in the state `s1` the first leaves (R145, R204). -/
theorem exchangeHandler_of_ok (f : Word → Word → Word) (hw : l1.writable = true) {s1 : State}
    (hs1 : s1 = s.store l1 (f (s.valueAt l1) (s.valueAt l2))) :
    exchangeHandler Bus.ram64 f s =
      opWrite Bus.ram64 .two (s.valueAt l1) (s1.note (s.updateTraffic l1 l2 (f (s.valueAt l1) (s.valueAt l2)))) := by
  subst hs1
  refine (readBoth_of_ok _ h1 h2).trans ?_
  rw [opWrite_note_of_ok _ h1 hw, Result.andThen_ok]
  rfl

end

/-! ## The block copies -/

section
variable {s s1 s2 : State} {u : UnitSize} {l1 l2 : Location} {f : Failure} (hs1 : s1 = s.copied u)
include hs1

theorem blockHandler_of_error_one (h1 : s1.location .one = .error f) :
    blockHandler Bus.ram64 u s = .raised f (s1.note (s.copyTraffic u ++ s1.slotTraffic .one)) := by
  subst hs1
  have h1' : ((s.copied u).note (s.copyTraffic u)).location .one = .error f := h1
  rw [blockHandler, copyUnit_eq, opRead_of_error h1', Result.andThen_raised, State.note_slotTraffic, State.note_note]

/-- After the copy and operand 1 there remain operand 2, in the state `s2` with `r6` advanced, and `r7` (R140). -/
theorem blockHandler_of_ok_one (h1 : s1.location .one = .ok l1) (hs2 : s2 = s1.set .r6 (s.get .r6 + s1.valueAt l1)) :
    blockHandler Bus.ram64 u s =
      (opRead Bus.ram64 .two (s2.note (s.copyTraffic u ++ s1.readTraffic .one l1))).andThen fun b t =>
        .ok () (t.set .r7 (t.get .r7 + b)) := by
  subst hs2 hs1
  have h1' : ((s.copied u).note (s.copyTraffic u)).location .one = .ok l1 := h1
  rw [blockHandler, copyUnit_eq, opRead_of_ok h1', Result.andThen_ok, State.note_readTraffic, State.note_note,
    State.note_valueAt]
  rfl

theorem blockHandler_of_error_two (h1 : s1.location .one = .ok l1) (hs2 : s2 = s1.set .r6 (s.get .r6 + s1.valueAt l1))
    (h2 : s2.location .two = .error f) :
    blockHandler Bus.ram64 u s =
      .raised f (s2.note (s.copyTraffic u ++ s1.readTraffic .one l1 ++ s2.slotTraffic .two)) := by
  have h2' : (s2.note (s.copyTraffic u ++ s1.readTraffic .one l1)).location .two = .error f := h2
  rw [blockHandler_of_ok_one hs1 h1 hs2, opRead_of_error h2', Result.andThen_raised, State.note_slotTraffic,
    State.note_note]

theorem blockHandler_of_ok (h1 : s1.location .one = .ok l1) (hs2 : s2 = s1.set .r6 (s.get .r6 + s1.valueAt l1))
    (h2 : s2.location .two = .ok l2) :
    blockHandler Bus.ram64 u s = .ok () ((s2.set .r7 (s2.get .r7 + s2.valueAt l2)).note
      (s.copyTraffic u ++ s1.readTraffic .one l1 ++ s2.readTraffic .two l2)) := by
  have h2' : (s2.note (s.copyTraffic u ++ s1.readTraffic .one l1)).location .two = .ok l2 := h2
  rw [blockHandler_of_ok_one hs1 h1 hs2, opRead_of_ok h2', Result.andThen_ok, State.note_readTraffic, State.note_note,
    State.note_valueAt, State.note_get, State.note_set]

end

/-! ## The handler of each shape -/

theorem handlerOf_of_unary {i : Instr} (h : i.shape = .unary) :
    ∃ f, handlerOf Bus.ram64 i = unaryHandler Bus.ram64 f := by
  cases i
  case not | neg => exact ⟨_, rfl⟩
  all_goals cases h

theorem handlerOf_of_update {i : Instr} (h : i.shape = .update) :
    ∃ f, handlerOf Bus.ram64 i = updateHandler Bus.ram64 f := by
  cases i
  case add | sub | adc | sbb | and | or | xor => exact ⟨_, rfl⟩
  all_goals cases h

theorem handlerOf_of_shift {i : Instr} (h : i.shape = .shift) :
    ∃ f, handlerOf Bus.ram64 i = shiftHandler Bus.ram64 f := by
  cases i
  case shl | shr | sal | sar | rol | ror | rcl | rcr => exact ⟨_, rfl⟩
  all_goals cases h

theorem handlerOf_of_compare {i : Instr} (h : i.shape = .compare) :
    ∃ z n, handlerOf Bus.ram64 i = compareHandler Bus.ram64 z n := by
  cases i
  case cmp | test => exact ⟨_, _, rfl⟩
  all_goals cases h

theorem handlerOf_of_exchange {i : Instr} (h : i.shape = .exchange) :
    ∃ f, handlerOf Bus.ram64 i = exchangeHandler Bus.ram64 f := by
  cases i
  case xchg | xadd => exact ⟨_, rfl⟩
  all_goals cases h

theorem handlerOf_of_compareExchange {i : Instr} (h : i.shape = .compareExchange) :
    handlerOf Bus.ram64 i = compareExchangeHandler Bus.ram64 := by
  cases i
  case cmpxchg | cmpxchg8b => rfl
  all_goals cases h

theorem handlerOf_of_unitSize {i : Instr} {u : UnitSize} (h : i.unitSize = some u) :
    handlerOf Bus.ram64 i = blockHandler Bus.ram64 u := by
  cases i
  case cmpsb | cmpsw | cmpsd | cmpsq => cases h; rfl
  all_goals cases h

/-- Every instruction with operands but the unary ones and the block copies begins with the two reads. -/
theorem handlerOf_eq_readBoth {i : Instr} (hc : i.shape ≠ .control) (hu : i.shape ≠ .unary) (hb : i.shape ≠ .block) :
    ∃ next, handlerOf Bus.ram64 i = readBoth next := by
  cases i
  case nop | hlt => exact absurd rfl hc
  case not | neg => exact absurd rfl hu
  case cmpsb | cmpsw | cmpsd | cmpsq => exact absurd rfl hb
  all_goals exact ⟨_, rfl⟩

/-! ## The results -/

/-- Settles O24: the handler of the update, with the function of each instruction. -/
theorem arithmeticResults : Obligations.ArithmeticResults := fun _ _ _ _ _ hb h1 h2 hw =>
  ⟨exec_of_ok hb (updateHandler_of_ok h1 h2 Alu.add hw), exec_of_ok hb (updateHandler_of_ok h1 h2 Alu.sub hw),
    exec_of_ok hb (updateHandler_of_ok h1 h2 Alu.adc hw), exec_of_ok hb (updateHandler_of_ok h1 h2 Alu.sbb hw)⟩

/-- Settles O25: the handler of the update, with the function of each instruction. -/
theorem bitwiseResults : Obligations.BitwiseResults := fun _ _ _ _ _ hb h1 h2 hw =>
  ⟨exec_of_ok hb (updateHandler_of_ok h1 h2 Alu.band hw), exec_of_ok hb (updateHandler_of_ok h1 h2 Alu.bor hw),
    exec_of_ok hb (updateHandler_of_ok h1 h2 Alu.bxor hw)⟩

/-- `neg` is the two's complement (R120). -/
theorem Alu.neg_eq (a : Word) : Alu.neg a = ~~~a + 1 := (BitVec.zero_sub a).trans (BitVec.neg_eq_not_add a)

/-- Settles O26: the unary handler, with the function of each instruction. -/
theorem notAndNegResults : Obligations.NotAndNegResults := by
  intro a s l1 hb h1 hw
  have hneg := unaryHandler_of_ok h1 Alu.neg hw
  rw [Alu.neg_eq] at hneg
  exact ⟨exec_of_ok hb (unaryHandler_of_ok h1 Alu.bnot hw), exec_of_ok hb hneg⟩

/-- Settles O27: the handler of the shifts computes the closed forms, which are the loops (O43). -/
theorem shiftResults : Obligations.ShiftResults := by
  intro a b s l1 l2 hb h1 h2 hw
  refine ⟨?_, ?_, ?_⟩
  · rintro x rfl
    have hshl := shiftHandler_of_ok h1 h2 Alu.shl hw (Alu.shl_eq_repeatBit ..)
    exact ⟨exec_of_ok hb hshl, exec_of_ok hb hshl⟩
  · rintro x rfl
    exact exec_of_ok hb (shiftHandler_of_ok h1 h2 Alu.shr hw (Alu.shr_eq_repeatBit ..))
  · rintro x rfl
    exact exec_of_ok hb (shiftHandler_of_ok h1 h2 Alu.sar hw (Alu.sar_eq_repeatBit ..))

/-- Settles O28: the handler of the shifts computes the closed forms, which are the loops (O44). -/
theorem rotateResults : Obligations.RotateResults := by
  intro a b s l1 l2 hb h1 h2 hw
  refine ⟨?_, ?_, ?_, ?_⟩
  · rintro x rfl
    exact exec_of_ok hb (shiftHandler_of_ok h1 h2 Alu.rol hw (Alu.rol_eq_repeatBit ..))
  · rintro x rfl
    exact exec_of_ok hb (shiftHandler_of_ok h1 h2 Alu.ror hw (Alu.ror_eq_repeatBit ..))
  · rintro x rfl
    exact exec_of_ok hb (shiftHandler_of_ok h1 h2 Alu.rcl hw (Alu.rcl_eq_repeatBit ..))
  · rintro x rfl
    exact exec_of_ok hb (shiftHandler_of_ok h1 h2 Alu.rcr hw (Alu.rcr_eq_repeatBit ..))

/-- Settles O29: the handler of the compares, with the two conditions of each. -/
theorem compareResults : Obligations.CompareResults := by
  intro a b s l1 l2 hb h1 h2
  exact ⟨exec_of_ok hb (compareHandler_of_ok h1 h2 cmpZero compareBelow),
    exec_of_ok hb (compareHandler_of_ok h1 h2 testZero compareBelow)⟩

/-- Settles O30: the exchange, its second write resolved in the state that the first leaves. -/
theorem exchangeResults : Obligations.ExchangeResults := by
  intro a b s l1 l2 m hb h1 h2 hw hm
  constructor
  · intro s1 hs1 hm1
    exact exec_of_ok hb ((exchangeHandler_of_ok h1 h2 (fun _ b => b) hw hs1).trans (opWrite_note_of_ok _ hm1 hm))
  · intro s1 hs1 hm1
    exact exec_of_ok hb ((exchangeHandler_of_ok h1 h2 (fun a b => a + b) hw hs1).trans (opWrite_note_of_ok _ hm1 hm))

/-- Settles O31: `cmpxchg8b` has the handler of `cmpxchg`. -/
theorem compareExchangeResults : Obligations.CompareExchangeResults := by
  intro a b s l1 l2 hb h1 h2
  constructor
  · intro he hw
    have h := compareExchangeHandler_of_ok h1 h2 he hw
    exact ⟨exec_of_ok hb h, exec_of_ok hb h⟩
  · intro hne
    have h := compareExchangeHandler_of_ne h1 h2 hne
    exact ⟨exec_of_ok hb h, exec_of_ok hb h⟩

/-- Settles O32: the copy, then the two operands, each in the state reached by then. -/
theorem blockCopyResults : Obligations.BlockCopyResults := by
  intro i u s s1 s2 l1 l2 hu hb hs1 h1 hs2 h2
  refine exec_of_ok hb ?_
  rw [handlerOf_of_unitSize hu, blockHandler_of_ok hs1 h1 hs2 h2]

/-! ## The failures -/

/-- Settles O33: the reads come first, so the first operand that does not resolve ends the handler. -/
theorem unreadableOperandsFail : Obligations.UnreadableOperandsFail := by
  intro i s f hb hcontrol hblock
  by_cases hunary : i.shape = .unary
  · obtain ⟨g, hg⟩ := handlerOf_of_unary hunary
    refine ⟨fun h1 => exec_of_raised hb ?_, fun _ hnot => absurd hunary hnot⟩
    rw [hg, unaryHandler, opRead_of_error h1, Result.andThen_raised]
  · obtain ⟨next, hnext⟩ := handlerOf_eq_readBoth hcontrol hunary hblock
    refine ⟨fun h1 => exec_of_raised hb ?_, fun l1 _ h1 h2 => exec_of_raised hb ?_⟩
    · rw [hnext, readBoth_of_error_one next h1]
    · rw [hnext, readBoth_of_error_two next h1 h2]

/-- Settles O34: in each shape that writes operand 1 its write comes right after the reads. -/
theorem immediateDestinationFails : Obligations.ImmediateDestinationFails := by
  intro i s l1 l2 hb h1 hw
  refine ⟨fun hi => exec_of_raised hb ?_, fun hi h2 => exec_of_raised hb ?_⟩
  · obtain ⟨f, hf⟩ := handlerOf_of_unary hi
    rw [hf, unaryHandler_of_literal h1 f hw]
  · obtain hi | hi | hi | ⟨hi, he⟩ := hi
    · obtain ⟨f, hf⟩ := handlerOf_of_update hi
      rw [hf, updateHandler_of_literal h1 h2 f hw]
    · obtain ⟨f, hf⟩ := handlerOf_of_shift hi
      rw [hf, shiftHandler_of_literal h1 h2 f hw]
    · obtain ⟨f, hf⟩ := handlerOf_of_exchange hi
      rw [hf, exchangeHandler_of_literal h1 h2 f hw]
    · rw [handlerOf_of_compareExchange hi, compareExchangeHandler_of_literal h1 h2 he hw]

/-- Settles O35: the failure of the second write is raised in the state of the first. -/
theorem exchangeKeepsItsFirstWrite : Obligations.ExchangeKeepsItsFirstWrite := by
  intro a b s l1 l2 hb h1 h2 hw
  constructor
  · intro s1 hs1
    have h := exchangeHandler_of_ok h1 h2 (fun _ b => b) hw hs1
    exact ⟨fun f hf => exec_of_raised hb (h.trans (opWrite_note_of_error _ hf)),
      fun m hm hmw => exec_of_raised hb (h.trans (opWrite_note_of_literal _ hm hmw))⟩
  · intro s1 hs1
    have h := exchangeHandler_of_ok h1 h2 (fun a b => a + b) hw hs1
    exact ⟨fun f hf => exec_of_raised hb (h.trans (opWrite_note_of_error _ hf)),
      fun m hm hmw => exec_of_raised hb (h.trans (opWrite_note_of_literal _ hm hmw))⟩

/-- Settles O36: the copy, and the advance of `r6`, come before the reads that fail. -/
theorem blockCopyKeepsTheCopy : Obligations.BlockCopyKeepsTheCopy := by
  intro i u s s1 f hu hb hs1
  refine ⟨fun h1 => exec_of_raised hb ?_, fun l1 s2 h1 hs2 h2 => exec_of_raised hb ?_⟩
  · rw [handlerOf_of_unitSize hu, blockHandler_of_error_one hs1 h1]
  · rw [handlerOf_of_unitSize hu, blockHandler_of_error_two hs1 h1 hs2 h2]

end Sys2Proof.Machine
end

section
/-! How a handler ends, said once for each shape: exactly when it completes, what it has then changed and what when it
fails, and that its transactions are of the widths of operand accesses (R90, R95, R157). -/

namespace Sys2Proof.Machine

/-! ## Operands that resolve -/

section
variable {s : State} {k : Operand} {l : Location} {f : Failure}

theorem canRead_of_ok (h : s.location k = .ok l) : s.canRead k := ⟨l, h⟩

theorem not_canRead_of_error (h : s.location k = .error f) : ¬ s.canRead k := fun ⟨_, hl⟩ => nomatch h.symm.trans hl

theorem State.canWrite.canRead (h : s.canWrite k) : s.canRead k :=
  let ⟨l, hl, _⟩ := h
  ⟨l, hl⟩

theorem canWrite_iff_of_ok (h : s.location k = .ok l) : s.canWrite k ↔ l.writable = true := by
  constructor
  · rintro ⟨l', hl', hw⟩
    cases h.symm.trans hl'
    exact hw
  · exact fun hw => ⟨l, h, hw⟩

theorem not_canWrite_of_error (h : s.location k = .error f) : ¬ s.canWrite k := fun hw => not_canRead_of_error h hw.canRead

end

@[simp] theorem State.note_canRead (s : State) (ts : List Transaction) (k : Operand) :
    (s.note ts).canRead k ↔ s.canRead k := Iff.rfl

@[simp] theorem State.note_canWrite (s : State) (ts : List Transaction) (k : Operand) :
    (s.note ts).canWrite k ↔ s.canWrite k := Iff.rfl

/-! ## The widths of operand accesses -/

/-- A transaction of an operand access: the mode field, a slot or operand value read, or an operand written (R95). -/
def Transaction.ofOperand (x : Transaction) : Prop :=
  (∃ a v, x = .read16 a v) ∨ (∃ a v, x = .read64 a v) ∨ (∃ a v, x = .write64 a v)

/-- All transactions of a list are those of operand accesses. -/
def OperandTraffic (ts : List Transaction) : Prop := ∀ x ∈ ts, x.ofOperand

theorem operandTraffic_nil : OperandTraffic [] := fun _ hx => nomatch hx

theorem OperandTraffic.append {ts us : List Transaction} (ht : OperandTraffic ts) (hu : OperandTraffic us) :
    OperandTraffic (ts ++ us) := fun x hx => (List.mem_append.1 hx).elim (ht x) (hu x)

theorem operandTraffic_read64 {a v : Word} : OperandTraffic [.read64 a v] := by
  intro x hx
  exact .inr (.inl ⟨a, v, List.mem_singleton.1 hx⟩)

theorem operandTraffic_write64 {a v : Word} : OperandTraffic [.write64 a v] := by
  intro x hx
  exact .inr (.inr ⟨a, v, List.mem_singleton.1 hx⟩)

theorem operandTraffic_slotTraffic {s : State} {k : Operand} : OperandTraffic (s.slotTraffic k) := by
  intro x hx
  obtain rfl | hx := List.mem_cons.1 hx
  · exact .inl ⟨_, _, rfl⟩
  · exact operandTraffic_read64 x hx

theorem operandTraffic_readTraffic {s : State} {k : Operand} {l : Location} : OperandTraffic (s.readTraffic k l) := by
  refine operandTraffic_slotTraffic.append ?_
  cases l with
  | literal v => exact operandTraffic_nil
  | register r => exact operandTraffic_nil
  | memory a => exact operandTraffic_read64

theorem operandTraffic_writeTraffic {s : State} {k : Operand} {l : Location} {v : Word} :
    OperandTraffic (s.writeTraffic k l v) := by
  refine operandTraffic_slotTraffic.append ?_
  cases l with
  | literal v => exact operandTraffic_nil
  | register r => exact operandTraffic_nil
  | memory a => exact operandTraffic_write64

theorem operandTraffic_readsTraffic {s : State} {l1 l2 : Location} : OperandTraffic (s.readsTraffic l1 l2) :=
  operandTraffic_readTraffic.append operandTraffic_readTraffic

theorem operandTraffic_updateTraffic {s : State} {l1 l2 : Location} {v : Word} :
    OperandTraffic (s.updateTraffic l1 l2 v) :=
  operandTraffic_readsTraffic.append operandTraffic_writeTraffic

/-! ## The end of a handler -/

/-- A handler completes exactly under `cond`; apart from transactions of operand accesses, the state it leaves is then one
of `completed`, and one of `failed` when it raises. -/
inductive Ends (cond : Prop) (completed failed : State → Prop) : Result Unit → Prop
  | ok (w : State) (ts : List Transaction) (hc : cond) (hw : completed w) (ht : OperandTraffic ts) :
      Ends cond completed failed (.ok () (w.note ts))
  | raised (f : Failure) (w : State) (ts : List Transaction) (hc : ¬ cond) (hw : failed w) (ht : OperandTraffic ts) :
      Ends cond completed failed (.raised f (w.note ts))

section
variable {cond : Prop} {completed failed : State → Prop} {s : State}

/-- What holds of the states a handler can leave, whatever operand accesses are logged, holds of the one it leaves. -/
theorem Ends.state {r : Result Unit} (h : Ends cond completed failed r) {P : State → Prop}
    (hn : ∀ w ts, OperandTraffic ts → P w → P (w.note ts)) (hc : ∀ w, completed w → P w) (hf : ∀ w, failed w → P w) :
    P r.state := by
  cases h with
  | ok w ts _ hw ht => exact hn w ts ht (hc w hw)
  | raised f w ts _ hw ht => exact hn w ts ht (hf w hw)

/-- A handler that ends with a write to operand `k` completes exactly if the operand can be written. -/
theorem opWrite_ends {k : Operand} {v : Word} {ts : List Transaction} (ht : OperandTraffic ts)
    (hcond : cond ↔ s.canWrite k) (hc : ∀ l, s.location k = .ok l → completed (s.store l v)) (hf : failed s) :
    Ends cond completed failed (opWrite Bus.ram64 k v (s.note ts)) := by
  have hslots : OperandTraffic (ts ++ s.slotTraffic k) := ht.append operandTraffic_slotTraffic
  cases hl : s.location k with
  | error f =>
    rw [opWrite_note_of_error ts hl]
    exact .raised f s _ (mt hcond.1 (not_canWrite_of_error hl)) hf hslots
  | ok l =>
    cases hw : l.writable with
    | true =>
      rw [opWrite_note_of_ok ts hl hw]
      exact .ok _ _ (hcond.2 ⟨l, hl, hw⟩) (hc l hl) (ht.append operandTraffic_writeTraffic)
    | false =>
      rw [opWrite_note_of_literal ts hl hw]
      refine .raised _ s _ (mt hcond.1 fun h => ?_) hf hslots
      cases hw.symm.trans ((canWrite_iff_of_ok hl).1 h)

/-- A handler that begins with the two reads ends as what follows them does, if it needs both operands to complete. -/
theorem readBoth_ends {next : Word → Word → State → Result Unit} (hcond : cond → s.canRead .one ∧ s.canRead .two)
    (hf : failed s)
    (hnext : ∀ l1 l2, s.location .one = .ok l1 → s.location .two = .ok l2 →
      Ends cond completed failed (next (s.valueAt l1) (s.valueAt l2) (s.note (s.readsTraffic l1 l2)))) :
    Ends cond completed failed (readBoth next s) := by
  cases h1 : s.location .one with
  | error f =>
    rw [readBoth_of_error_one next h1]
    exact .raised f s _ (fun h => not_canRead_of_error h1 (hcond h).1) hf operandTraffic_slotTraffic
  | ok l1 =>
    cases h2 : s.location .two with
    | error f =>
      rw [readBoth_of_error_two next h1 h2]
      exact .raised f s _ (fun h => not_canRead_of_error h2 (hcond h).2) hf
        (operandTraffic_readTraffic.append operandTraffic_slotTraffic)
    | ok l2 =>
      rw [readBoth_of_ok next h1 h2]
      exact hnext l1 l2 h1 h2

/-- A flag written last. -/
theorem Ends.andThen_setFlag {r : Result Unit} (h : Ends cond completed failed r) (f : Flag) (b : Bool) :
    Ends cond (fun w => ∃ w', completed w' ∧ w = w'.setFlag f b) failed (r.andThen fun _ s => .ok () (s.setFlag f b)) := by
  cases h with
  | ok w ts hc hw ht =>
    rw [Result.andThen_ok, State.note_setFlag]
    exact .ok _ ts hc ⟨w, hw, rfl⟩ ht
  | raised f w ts hc hw ht => exact .raised f w ts hc hw ht

theorem Ends.mono_completed {r : Result Unit} (h : Ends cond completed failed r) {completed' : State → Prop}
    (hc : ∀ w, completed w → completed' w) : Ends cond completed' failed r := by
  cases h with
  | ok w ts hcond hw ht => exact .ok w ts hcond (hc w hw) ht
  | raised f w ts hcond hw ht => exact .raised f w ts hcond hw ht

end

/-! ## Each shape -/

/-- The state with a value stored at what operand 1 names. -/
def State.storesOne (s w : State) : Prop := ∃ l v, s.location .one = .ok l ∧ w = s.store l v

section
variable (s : State)

theorem unaryHandler_ends (f : Word → Word) :
    Ends (s.canWrite .one) s.storesOne (· = s) (unaryHandler Bus.ram64 f s) := by
  cases h1 : s.location .one with
  | error g =>
    rw [unaryHandler, opRead_of_error h1, Result.andThen_raised]
    exact .raised g s _ (not_canWrite_of_error h1) rfl operandTraffic_slotTraffic
  | ok l1 =>
    rw [unaryHandler, opRead_of_ok h1, Result.andThen_ok]
    exact opWrite_ends operandTraffic_readTraffic Iff.rfl (fun l hl => ⟨l, _, hl, rfl⟩) rfl

theorem updateHandler_ends (f : Word → Word → Bool → Word) :
    Ends (s.canWrite .one ∧ s.canRead .two) s.storesOne (· = s) (updateHandler Bus.ram64 f s) :=
  readBoth_ends (fun ⟨h1, h2⟩ => ⟨h1.canRead, h2⟩) rfl fun _ _ _ h2 =>
    opWrite_ends operandTraffic_readsTraffic (and_iff_left (canRead_of_ok h2)) (fun l hl => ⟨l, _, hl, rfl⟩) rfl

theorem shiftHandler_ends (f : Word → Word → Bool → Word × Bool) :
    Ends (s.canWrite .one ∧ s.canRead .two) (fun w => ∃ w' c, s.storesOne w' ∧ w = w'.setFlag .carry c) (· = s)
      (shiftHandler Bus.ram64 f s) :=
  readBoth_ends (fun ⟨h1, h2⟩ => ⟨h1.canRead, h2⟩) rfl fun _ _ _ h2 =>
    ((opWrite_ends (completed := s.storesOne) (failed := (· = s)) operandTraffic_readsTraffic
      (and_iff_left (canRead_of_ok h2)) (fun l hl => ⟨l, _, hl, rfl⟩) rfl).andThen_setFlag .carry _).mono_completed
        fun _ ⟨w', hw', h⟩ => ⟨w', _, hw', h⟩

theorem compareHandler_ends (z n : Word → Word → Bool) :
    Ends (s.canRead .one ∧ s.canRead .two) (fun w => ∃ b c, w = s.setCompareFlags b c) (· = s)
      (compareHandler Bus.ram64 z n s) :=
  readBoth_ends id rfl fun _ _ h1 h2 => by
    rw [State.note_setCompareFlags]
    exact .ok _ _ ⟨canRead_of_ok h1, canRead_of_ok h2⟩ ⟨_, _, rfl⟩ operandTraffic_readsTraffic

theorem compareExchangeHandler_ends :
    Ends (s.canRead .two ∧ ∃ l1, s.location .one = .ok l1 ∧ (s.valueAt l1 = s.get .r0 → l1.writable = true))
      (fun w => w = s ∨ s.storesOne w) (· = s) (compareExchangeHandler Bus.ram64 s) := by
  refine readBoth_ends (fun ⟨h2, l1, h1, _⟩ => ⟨⟨l1, h1⟩, h2⟩) rfl fun l1 l2 h1 h2 => ?_
  by_cases he : s.valueAt l1 = s.get .r0
  · rw [State.note_get, if_pos he]
    refine opWrite_ends operandTraffic_readsTraffic ?_ (fun l hl => .inr ⟨l, _, hl, rfl⟩) rfl
    rw [canWrite_iff_of_ok h1, and_iff_right (canRead_of_ok h2)]
    constructor
    · rintro ⟨l, hl, hw⟩
      cases h1.symm.trans hl
      exact hw he
    · exact fun hw => ⟨l1, h1, fun _ => hw⟩
  · rw [State.note_get, if_neg he]
    exact .ok s _ ⟨canRead_of_ok h2, l1, h1, (absurd · he)⟩ (.inl rfl) operandTraffic_readsTraffic

/-- The state after the first write of an exchange, `f` giving the value written. -/
def State.storesFirst (s : State) (f : Word → Word → Word) (w : State) : Prop :=
  ∃ l1 l2, s.location .one = .ok l1 ∧ s.location .two = .ok l2 ∧ w = s.store l1 (f (s.valueAt l1) (s.valueAt l2))

theorem exchangeHandler_ends (f : Word → Word → Word) :
    Ends
      (∃ l1 l2, s.location .one = .ok l1 ∧ s.location .two = .ok l2 ∧ l1.writable = true ∧
        (s.store l1 (f (s.valueAt l1) (s.valueAt l2))).canWrite .two)
      (fun w => ∃ s1 m v, s.storesFirst f s1 ∧ s1.location .two = .ok m ∧ w = s1.store m v)
      (fun w => w = s ∨ s.storesFirst f w) (exchangeHandler Bus.ram64 f s) := by
  refine readBoth_ends (fun ⟨l1, l2, h1, h2, _⟩ => ⟨⟨l1, h1⟩, ⟨l2, h2⟩⟩) (.inl rfl) fun l1 l2 h1 h2 => ?_
  have hcond {P : Location → Location → Prop} :
      (∃ k1 k2, s.location .one = .ok k1 ∧ s.location .two = .ok k2 ∧ P k1 k2) ↔ P l1 l2 := by
    simp only [h1, h2, Except.ok.injEq, exists_and_left, exists_eq_left']
  cases hw : l1.writable with
  | false =>
    rw [opWrite_note_of_literal _ h1 hw, Result.andThen_raised]
    refine .raised _ s _ (fun h => ?_) (.inl rfl) (operandTraffic_readsTraffic.append operandTraffic_slotTraffic)
    cases hw.symm.trans (hcond.1 h).1
  | true =>
    rw [opWrite_note_of_ok _ h1 hw, Result.andThen_ok]
    exact opWrite_ends operandTraffic_updateTraffic (hcond.trans (and_iff_right hw))
      (fun m hm => ⟨_, m, _, ⟨l1, l2, h1, h2, rfl⟩, hm, rfl⟩) (.inr ⟨l1, l2, h1, h2, rfl⟩)

/-- The state after the copy of a block instruction, its two transactions logged. -/
def State.copiedLogged (s : State) (u : UnitSize) : State := (s.copied u).note (s.copyTraffic u)

theorem blockHandler_ends (u : UnitSize) :
    Ends
      (∃ l1, (s.copied u).location .one = .ok l1 ∧
        ((s.copied u).set .r6 (s.get .r6 + (s.copied u).valueAt l1)).canRead .two)
      (fun w => ∃ a b, w = ((s.copiedLogged u).set .r6 a).set .r7 b)
      (fun w => w = s.copiedLogged u ∨ ∃ a, w = (s.copiedLogged u).set .r6 a) (blockHandler Bus.ram64 u s) := by
  cases h1 : (s.copied u).location .one with
  | error f =>
    rw [blockHandler_of_error_one rfl h1, ← State.note_note]
    exact .raised f _ _ (fun ⟨l1, hl, _⟩ => nomatch hl) (.inl rfl) operandTraffic_slotTraffic
  | ok l1 =>
    have hcond : (∃ k1, (Except.ok l1 : Except Failure Location) = .ok k1 ∧
        ((s.copied u).set .r6 (s.get .r6 + (s.copied u).valueAt k1)).canRead .two) ↔
        ((s.copied u).set .r6 (s.get .r6 + (s.copied u).valueAt l1)).canRead .two := by
      simp only [Except.ok.injEq, exists_eq_left']
    rw [hcond]
    cases h2 : ((s.copied u).set .r6 (s.get .r6 + (s.copied u).valueAt l1)).location .two with
    | error f =>
      rw [blockHandler_of_error_two rfl h1 rfl h2, List.append_assoc, ← State.note_note]
      exact .raised f _ _ (not_canRead_of_error h2) (.inr ⟨_, rfl⟩)
        (operandTraffic_readTraffic.append operandTraffic_slotTraffic)
    | ok l2 =>
      rw [blockHandler_of_ok rfl h1 rfl h2, List.append_assoc, ← State.note_note]
      exact .ok _ _ (canRead_of_ok h2) ⟨_, _, rfl⟩
        (operandTraffic_readTraffic.append operandTraffic_readTraffic)

end

end Sys2Proof.Machine
end

section
/-! The frames: what each shape of instruction leaves unchanged, and where the engine's advance leaves `pc` (R16, R19,
R82). -/

namespace Sys2Proof.Machine

/-! ## From a handler to the end of the step -/

theorem State.takeFailure_runState_ne_running (f : Failure) (s : State) : (s.takeFailure f).runState ≠ .running := by
  cases f <;> exact nofun

section
variable {i : Instr} {s t : State} (h : exec i s = .next t)
include h

/-- The engine ends the step in the state the handler leaves (R82). -/
theorem exec_from_handler :
    t = (handlerOf Bus.ram64 i s).state.done ∨ ∃ f, t = (handlerOf Bus.ram64 i s).state.takeFailure f := by
  obtain ⟨-, ⟨s', hok, rfl⟩ | ⟨f, s', hraised, rfl⟩⟩ := exec_next h
  · rw [hok]
    exact .inl rfl
  · rw [hraised]
    exact .inr ⟨f, rfl⟩

theorem exec_get_ne {r : Reg} (hr : r ≠ .pc) : t.get r = (handlerOf Bus.ram64 i s).state.get r := by
  obtain rfl | ⟨f, rfl⟩ := exec_from_handler h
  · exact State.advance_get_ne _ r hr
  · rfl

theorem exec_mem : t.mem = (handlerOf Bus.ram64 i s).state.mem := by
  obtain rfl | ⟨f, rfl⟩ := exec_from_handler h <;> rfl

theorem exec_log : t.log = (handlerOf Bus.ram64 i s).state.log := by
  obtain rfl | ⟨f, rfl⟩ := exec_from_handler h <;> rfl

theorem exec_bus : t.bus = s.bus := exec_keeps (keptByStep_bus s.bus) rfl h

/-- The engine advances `pc` from where the handler left it, when the step completes (R16, R82). -/
theorem exec_get_pc (hr : s.runState = .running) :
    (t.runState = .running → t.get .pc = (handlerOf Bus.ram64 i s).state.get .pc + 2 * Config.params.slot) ∧
    (t.runState ≠ .running → t.get .pc = (handlerOf Bus.ram64 i s).state.get .pc) := by
  have hrun := handlerOf_keeps (kept_runState .running) i s hr
  obtain rfl | ⟨f, rfl⟩ := exec_from_handler h
  · exact ⟨fun _ => rfl, absurd hrun⟩
  · exact ⟨(absurd · (State.takeFailure_runState_ne_running f _)), fun _ => rfl⟩

end

/-! ## What differs between two states -/

/-- No register but those of `regs`, and no byte of memory but those of `bytes`, differs. -/
structure SameBut (regs : Reg → Prop) (bytes : Word → Prop) (s w : State) : Prop where
  get : ∀ r, ¬ regs r → w.get r = s.get r
  read8 : ∀ b, ¬ bytes b → w.mem.read8 b = s.mem.read8 b

/-- The register that a destination is. -/
def isRegister (d : Except Failure Location) (r : Reg) : Prop := d = .ok (.register r)

/-- A byte of a destination in memory. -/
def holdsByte (d : Except Failure Location) (b : Word) : Prop := ∃ a, d = .ok (.memory a) ∧ inSpan a 8 b = true

/-- Nothing differs but what the destination `d` names. -/
abbrev SameButAt (d : Except Failure Location) : State → State → Prop := SameBut (isRegister d) (holdsByte d)

/-- Nothing differs but what the destinations `d` and `e` name. -/
abbrev SameButAtBoth (d e : Except Failure Location) : State → State → Prop :=
  SameBut (fun r => isRegister d r ∨ isRegister e r) (fun b => holdsByte d b ∨ holdsByte e b)

theorem not_holdsByte {d : Except Failure Location} {b : Word} (h : ∀ a, d = .ok (.memory a) → inSpan a 8 b = false) :
    ¬ holdsByte d b := fun ⟨a, hd, hb⟩ => nomatch hb.symm.trans (h a hd)

section
variable {regs : Reg → Prop} {bytes : Word → Prop} {s w : State}

theorem SameBut.refl (s : State) : SameBut regs bytes s s := ⟨fun _ _ => rfl, fun _ _ => rfl⟩

theorem SameBut.of_eq (h : w = s) : SameBut regs bytes s w := h ▸ SameBut.refl w

theorem SameBut.note (h : SameBut regs bytes s w) (ts : List Transaction) : SameBut regs bytes s (w.note ts) :=
  ⟨h.get, h.read8⟩

theorem SameBut.set (h : SameBut regs bytes s w) {r : Reg} (hr : regs r) (v : Word) : SameBut regs bytes s (w.set r v) where
  get q hq := (w.set_get_ne r q v fun e => hq (e ▸ hr)).trans (h.get q hq)
  read8 := h.read8

/-- A store changes what is named by the location it goes to. -/
theorem SameBut.store (h : SameBut regs bytes s w) {l : Location} (hr : ∀ r, isRegister (.ok l) r → regs r)
    (hb : ∀ b, holdsByte (.ok l) b → bytes b) (v : Word) : SameBut regs bytes s (w.store l v) where
  get q hq := (w.store_get_ne l v q fun e => hq (hr q (congrArg _ e))).trans (h.get q hq)
  read8 b hnb := by
    refine (store_read8 w l v b fun a ha => ?_).trans (h.read8 b hnb)
    exact Bool.eq_false_of_not_eq_true fun hs => hnb (hb b ⟨a, congrArg _ ha, hs⟩)

end

theorem Memory.read8_write8_out (m : Memory) (a b : Word) (v : Byte) (h : inSpan a 1 b = false) :
    (m.write8 a v).read8 b = m.read8 b := by
  have hne := inSpan_succ_ne a b 1 0 (by omega) (by omega) h
  rw [BitVec.add_zero] at hne
  exact Memory.read8_write8_ne m a b v hne

/-- A block copy leaves every byte alone that is not one of the unit at the address in `r6` (R140). -/
theorem State.copied_read8 (s : State) (u : UnitSize) (b : Word) (h : inSpan (s.get .r6) u.bytes b = false) :
    (s.copied u).mem.read8 b = s.mem.read8 b := by
  cases u with
  | byte => exact Memory.read8_write8_out _ _ _ _ h
  | word => exact Memory.read8_write16_out _ _ _ _ h
  | dword => exact Memory.read8_write32_out _ _ _ _ h
  | qword => exact Memory.read8_write64_out _ _ _ _ h

/-- The frame of an instruction from the frame of its handler. -/
theorem exec_frame {regs : Reg → Prop} {bytes : Word → Prop} {i : Instr} {s t : State}
    (hs : SameBut regs bytes s (handlerOf Bus.ram64 i s).state) (h : exec i s = .next t) :
    (∀ r, r ≠ .pc → ¬ regs r → t.get r = s.get r) ∧ (∀ b, ¬ bytes b → t.mem.read8 b = s.mem.read8 b) ∧ t.bus = s.bus :=
  ⟨fun r hpc hr => (exec_get_ne h hpc).trans (hs.get r hr), fun b hb => exec_mem h ▸ hs.read8 b hb, exec_bus h⟩

/-! ## The frame of each shape's handler -/

section
variable {i : Instr} (s : State)

/-- A store to operand 1 changes what operand 1 names. -/
theorem State.storesOne.sameBut {s w : State} (h : s.storesOne w) : SameButAt (s.location .one) s w := by
  obtain ⟨l, v, hl, rfl⟩ := h
  rw [hl]
  exact (SameBut.refl s).store (fun _ => id) (fun _ => id) v

theorem handlerOf_sameBut_of_update (hi : i.shape = .update ∨ i.shape = .unary ∨ i.shape = .compareExchange) :
    SameButAt (s.location .one) s (handlerOf Bus.ram64 i s).state := by
  have hn (w : State) (ts : List Transaction) (_ : OperandTraffic ts) (h : SameButAt (s.location .one) s w) := h.note ts
  have hfailed (w : State) (h : w = s) : SameButAt (s.location .one) s w := .of_eq h
  obtain hi | hi | hi := hi
  · obtain ⟨f, hf⟩ := handlerOf_of_update hi
    rw [hf]
    exact (updateHandler_ends s f).state hn (fun _ => State.storesOne.sameBut) hfailed
  · obtain ⟨f, hf⟩ := handlerOf_of_unary hi
    rw [hf]
    exact (unaryHandler_ends s f).state hn (fun _ => State.storesOne.sameBut) hfailed
  · rw [handlerOf_of_compareExchange hi]
    exact (compareExchangeHandler_ends s).state hn (fun w hw => hw.elim (hfailed w) State.storesOne.sameBut) hfailed

/-- What a shift may write: its destination, and the flags register. -/
theorem handlerOf_sameBut_of_shift (hi : i.shape = .shift) :
    SameBut (fun r => isRegister (s.location .one) r ∨ r = .flags) (holdsByte (s.location .one)) s
      (handlerOf Bus.ram64 i s).state := by
  obtain ⟨f, hf⟩ := handlerOf_of_shift hi
  rw [hf]
  refine (shiftHandler_ends s f).state (fun w ts _ h => h.note ts) ?_ (fun _ => SameBut.of_eq)
  rintro w ⟨w', c, hw', rfl⟩
  have h' := hw'.sameBut
  exact SameBut.set ⟨fun r hr => h'.get r (mt .inl hr), h'.read8⟩ (.inr rfl) _

/-- Of the flags register a shift with another destination writes `C` alone (R121). -/
theorem handlerOf_flags_of_shift (hi : i.shape = .shift) (hd : s.location .one ≠ .ok (.register .flags)) {n : Nat}
    (hn : n ≠ Flag.carry.position) :
    ((handlerOf Bus.ram64 i s).state.get .flags).getLsbD n = (s.get .flags).getLsbD n := by
  obtain ⟨f, hf⟩ := handlerOf_of_shift hi
  rw [hf]
  refine (shiftHandler_ends s f).state (P := fun w => (w.get .flags).getLsbD n = (s.get .flags).getLsbD n)
    (fun _ _ _ h => h) ?_ (fun w hw => hw ▸ rfl)
  rintro w ⟨w', c, hw', rfl⟩
  rw [State.setFlag_get_flags, getLsbD_setFlagBit, if_neg hn, hw'.sameBut.get .flags hd]

theorem State.setCompareFlags_sameBut (z n : Bool) :
    SameBut (· = .flags) (fun _ => False) s (s.setCompareFlags z n) := by
  have hs : SameBut (· = .flags) (fun _ => False) s s := .refl s
  exact (hs.set rfl _).set rfl _

theorem handlerOf_sameBut_of_compare (hi : i.shape = .compare) :
    SameBut (· = .flags) (fun _ => False) s (handlerOf Bus.ram64 i s).state := by
  obtain ⟨z, n, hzn⟩ := handlerOf_of_compare hi
  rw [hzn]
  refine (compareHandler_ends s z n).state (fun w ts _ h => h.note ts) ?_ (fun _ => SameBut.of_eq)
  rintro w ⟨b, c, rfl⟩
  exact s.setCompareFlags_sameBut b c

/-- Of the flags register a compare writes `Z` and `N` alone (R144). -/
theorem handlerOf_flags_of_compare (hi : i.shape = .compare) {n : Nat} (hz : n ≠ Flag.zero.position)
    (hn : n ≠ Flag.negative.position) :
    ((handlerOf Bus.ram64 i s).state.get .flags).getLsbD n = (s.get .flags).getLsbD n := by
  obtain ⟨zero, below, hzn⟩ := handlerOf_of_compare hi
  rw [hzn]
  refine (compareHandler_ends s zero below).state (P := fun w => (w.get .flags).getLsbD n = (s.get .flags).getLsbD n)
    (fun _ _ _ h => h) ?_ (fun w hw => hw ▸ rfl)
  rintro w ⟨b, c, rfl⟩
  rw [State.setCompareFlags, State.setFlag_get_flags, getLsbD_setFlagBit, if_neg hn, State.setFlag_get_flags,
    getLsbD_setFlagBit, if_neg hz]

/-- What an exchange may write: its first destination, and its second, as operand 2 resolves after the first write. -/
theorem exchangeHandler_sameBut (f : Word → Word → Word) {s1 : State} (hs1 : ∀ w, s.storesFirst f w → w = s1) :
    SameButAtBoth (s.location .one) (s1.location .two) s (exchangeHandler Bus.ram64 f s).state := by
  have hfirst (w : State) (hw : s.storesFirst f w) : SameButAtBoth (s.location .one) (s1.location .two) s w := by
    obtain ⟨l1, l2, h1, -, rfl⟩ := hw
    rw [h1]
    exact (SameBut.refl s).store (fun _ => .inl) (fun _ => .inl) _
  refine (exchangeHandler_ends s f).state (fun w ts _ h => h.note ts) ?_
    (fun w hw => hw.elim (SameBut.of_eq) (hfirst w))
  rintro w ⟨w1, m, v, hw1, hm, rfl⟩
  have hsecond := hfirst w1 hw1
  obtain rfl := hs1 w1 hw1
  rw [hm] at hsecond ⊢
  exact hsecond.store (fun _ => .inr) (fun _ => .inr) v

/-- What a block copy may write: `r6`, `r7`, and the unit at the address in `r6` (R140). -/
theorem handlerOf_sameBut_of_block {u : UnitSize} (hi : i.unitSize = some u) :
    SameBut (fun r => r = .r6 ∨ r = .r7) (fun b => inSpan (s.get .r6) u.bytes b = true) s
      (handlerOf Bus.ram64 i s).state := by
  have hcopy : SameBut (fun r => r = .r6 ∨ r = .r7) (fun b => inSpan (s.get .r6) u.bytes b = true) s (s.copiedLogged u) :=
    SameBut.note ⟨fun r _ => s.copied_get u r, fun b hb => s.copied_read8 u b (Bool.eq_false_of_not_eq_true hb)⟩ _
  rw [handlerOf_of_unitSize hi]
  refine (blockHandler_ends s u).state (fun w ts _ h => h.note ts) ?_ ?_
  · rintro w ⟨a, b, rfl⟩
    exact (hcopy.set (.inl rfl) a).set (.inr rfl) b
  · rintro w (rfl | ⟨a, rfl⟩)
    · exact hcopy
    · exact hcopy.set (.inl rfl) a

theorem handlerOf_state_of_control (hi : i.shape = .control) : (handlerOf Bus.ram64 i s).state = s := by
  cases i
  case nop | hlt => rfl
  all_goals cases hi

end

/-! ## The frames -/

/-- Settles O37: the frame of the three handlers that store to operand 1 alone. -/
theorem updateFrame : Obligations.UpdateFrame := by
  intro i s t hi h
  obtain ⟨hreg, hbyte, hbus⟩ := exec_frame (handlerOf_sameBut_of_update s hi) h
  exact ⟨hreg, fun b hb => hbyte b (not_holdsByte hb), hbus⟩

/-- Settles O38: the frame of the shifts, and the bits of the flags register. -/
theorem shiftFrame : Obligations.ShiftFrame := by
  intro i s t hi h
  obtain ⟨hreg, hbyte, hbus⟩ := exec_frame (handlerOf_sameBut_of_shift s hi) h
  refine ⟨fun r hpc hf hd => hreg r hpc (not_or.2 ⟨hd, hf⟩), fun hd n hn => ?_,
    fun b hb => hbyte b (not_holdsByte hb), hbus⟩
  rw [exec_get_ne (r := .flags) h nofun, handlerOf_flags_of_shift s hi hd hn]

/-- Settles O39: the frame of the compares, and the bits of the flags register. -/
theorem compareFrame : Obligations.CompareFrame := by
  intro i s t hi h
  obtain ⟨hreg, hbyte, hbus⟩ := exec_frame (handlerOf_sameBut_of_compare s hi) h
  refine ⟨hreg, fun n hz hn => ?_, fun b => hbyte b id, hbus⟩
  rw [exec_get_ne (r := .flags) h nofun, handlerOf_flags_of_compare s hi hz hn]

/-- The frame of an exchange in the words of O40. -/
theorem exchange_frame {i : Instr} {s t s1 : State} {f : Word → Word → Word}
    (hi : handlerOf Bus.ram64 i = exchangeHandler Bus.ram64 f)
    (hs1 : ∀ l1 l2, s.location .one = .ok l1 → s.location .two = .ok l2 → s1 = s.store l1 (f (s.valueAt l1) (s.valueAt l2)))
    (h : exec i s = .next t) :
    (∀ r, r ≠ .pc → s.location .one ≠ .ok (.register r) → s1.location .two ≠ .ok (.register r) → t.get r = s.get r) ∧
    (∀ x, (∀ d, s.location .one = .ok (.memory d) → inSpan d 8 x = false) →
      (∀ d, s1.location .two = .ok (.memory d) → inSpan d 8 x = false) → t.mem.read8 x = s.mem.read8 x) ∧
    t.bus = s.bus := by
  have hsame := exchangeHandler_sameBut s f (s1 := s1) fun w ⟨l1, l2, h1, h2, hw⟩ => hw.trans (hs1 l1 l2 h1 h2).symm
  rw [← hi] at hsame
  obtain ⟨hreg, hbyte, hbus⟩ := exec_frame hsame h
  exact ⟨fun r hpc h1 h2 => hreg r hpc (not_or.2 ⟨h1, h2⟩),
    fun x h1 h2 => hbyte x (not_or.2 ⟨not_holdsByte h1, not_holdsByte h2⟩), hbus⟩

/-- Settles O40: `xchg` and `xadd` differ in the value of the first write alone. -/
theorem exchangeFrame : Obligations.ExchangeFrame := by
  rintro a b s t s1 i (⟨rfl, hs1⟩ | ⟨rfl, hs1⟩) h
  · exact exchange_frame (f := fun _ b => b) rfl hs1 h
  · exact exchange_frame (f := fun a b => a + b) rfl hs1 h

/-- Settles O41: the frame of the block copies. -/
theorem blockCopyFrame : Obligations.BlockCopyFrame := by
  intro i u s t hi h
  obtain ⟨hreg, hbyte, hbus⟩ := exec_frame (handlerOf_sameBut_of_block s hi) h
  exact ⟨fun r hpc h6 h7 => hreg r hpc (not_or.2 ⟨h6, h7⟩), fun b hb => hbyte b (ne_true_of_eq_false hb), hbus⟩

/-- Settles O42: the handlers of `nop` and `hlt` leave the state as it is. -/
theorem controlFrame : Obligations.ControlFrame := by
  intro i s t hi h
  have hs := handlerOf_state_of_control s hi
  refine ⟨fun r hpc => ?_, fun b => ?_, exec_bus h, ?_⟩
  · rw [exec_get_ne h hpc, hs]
  · rw [exec_mem h, hs]
  · rw [exec_log h, hs]

/-! ## `pc`, and the flags without a writer -/

theorem unitSize_of_block {i : Instr} (hi : i.shape = .block) : ∃ u, i.unitSize = some u := by
  cases i
  case cmpsb | cmpsw | cmpsd | cmpsq => exact ⟨_, rfl⟩
  all_goals cases hi

/-- A register that is neither a destination nor one that a shape writes on its own is as before. -/
theorem handlerOf_get_of_ne {i : Instr} {s : State} {r : Reg} (hi : i.shape ≠ .exchange)
    (hd : s.location .one ≠ .ok (.register r)) (hf : r ≠ .flags) (h6 : r ≠ .r6) (h7 : r ≠ .r7) :
    (handlerOf Bus.ram64 i s).state.get r = s.get r := by
  cases hshape : i.shape with
  | exchange => exact absurd hshape hi
  | control => rw [handlerOf_state_of_control s hshape]
  | update => exact (handlerOf_sameBut_of_update s (.inl hshape)).get r hd
  | unary => exact (handlerOf_sameBut_of_update s (.inr (.inl hshape))).get r hd
  | compareExchange => exact (handlerOf_sameBut_of_update s (.inr (.inr hshape))).get r hd
  | shift => exact (handlerOf_sameBut_of_shift s hshape).get r (not_or.2 ⟨hd, hf⟩)
  | compare => exact (handlerOf_sameBut_of_compare s hshape).get r hf
  | block =>
    obtain ⟨u, hu⟩ := unitSize_of_block hshape
    exact (handlerOf_sameBut_of_block s hu).get r (not_or.2 ⟨h6, h7⟩)

/-- A step of the instruction that the lookup finds is its execution in the state after the fetch. -/
theorem exec_of_step {i : Instr} {s t : State} (hl : lookup s.key = some i) (h : step s = .next t) :
    s.runState = .running ∧ exec i s.fetched = .next t := by
  obtain ⟨hr, -, ⟨hmiss, -⟩ | ⟨j, hj, he⟩⟩ := step_next h
  · cases hl.symm.trans hmiss
  · cases hl.symm.trans hj
    exact ⟨hr, he⟩

/-- Settles O21: no handler whose destination is another register writes `pc`, and the engine advances it. -/
theorem pcAfterStep : Obligations.PcAfterStep := by
  intro s t i hl hi hd h
  obtain ⟨hr, he⟩ := exec_of_step hl h
  have hpc : (handlerOf Bus.ram64 i s.fetched).state.get .pc = s.get .pc :=
    handlerOf_get_of_ne (s := s.fetched) hi hd nofun nofun nofun
  rw [← hpc]
  exact exec_get_pc he hr

/-- The positions of R18 are nine different numbers. -/
theorem Flag.position_injective : ∀ {f g : Flag}, f.position = g.position → f = g := by
  intro f g
  cases f <;> cases g <;> decide

/-- The flags of R19 with no writer, at the end of any handler whose destination is not the flags register. -/
theorem handlerOf_flags_of_no_writer {i : Instr} {s : State} {f : Flag} (hi : i.shape ≠ .exchange)
    (hd : s.location .one ≠ .ok (.register .flags)) (hc : f ≠ .carry) (hz : f ≠ .zero) (hn : f ≠ .negative) :
    (handlerOf Bus.ram64 i s).state.getFlag f = s.getFlag f := by
  have hof (h : (handlerOf Bus.ram64 i s).state.get .flags = s.get .flags) :
      (handlerOf Bus.ram64 i s).state.getFlag f = s.getFlag f := by
    rw [State.getFlag, h, State.getFlag]
  cases hshape : i.shape with
  | exchange => exact absurd hshape hi
  | control => rw [handlerOf_state_of_control s hshape]
  | update => exact hof ((handlerOf_sameBut_of_update s (.inl hshape)).get .flags hd)
  | unary => exact hof ((handlerOf_sameBut_of_update s (.inr (.inl hshape))).get .flags hd)
  | compareExchange => exact hof ((handlerOf_sameBut_of_update s (.inr (.inr hshape))).get .flags hd)
  | shift => exact handlerOf_flags_of_shift s hshape hd (mt Flag.position_injective hc)
  | compare => exact handlerOf_flags_of_compare s hshape (mt Flag.position_injective hz) (mt Flag.position_injective hn)
  | block =>
    obtain ⟨u, hu⟩ := unitSize_of_block hshape
    exact hof ((handlerOf_sameBut_of_block s hu).get .flags (by decide))

/-- Settles O20: the fetch and the engine write no flag, and the handlers only those of the table of R19. -/
theorem flagsWithNoWriter : Obligations.FlagsWithNoWriter := by
  intro s t i f hl hi hd hc hz hn h
  obtain ⟨-, he⟩ := exec_of_step hl h
  have hflag : (handlerOf Bus.ram64 i s.fetched).state.getFlag f = s.getFlag f :=
    handlerOf_flags_of_no_writer (s := s.fetched) hi hd hc hz hn
  rw [← hflag, State.getFlag, exec_get_ne (r := .flags) he nofun, State.getFlag]

/-! ## The transactions of an instruction -/

/-- The log grows by transactions of operand accesses alone. -/
def LogsOperandTraffic (s w : State) : Prop := ∃ rest, w.log = s.log ++ rest ∧ OperandTraffic rest

theorem LogsOperandTraffic.refl (s : State) : LogsOperandTraffic s s := ⟨[], (List.append_nil _).symm, operandTraffic_nil⟩

theorem LogsOperandTraffic.note {s w : State} (h : LogsOperandTraffic s w) {ts : List Transaction}
    (ht : OperandTraffic ts) : LogsOperandTraffic s (w.note ts) := by
  obtain ⟨rest, hlog, hrest⟩ := h
  exact ⟨rest ++ ts, by rw [State.note_log, hlog, List.append_assoc], hrest.append ht⟩

theorem LogsOperandTraffic.of_log_eq {s w : State} (h : w.log = s.log) : LogsOperandTraffic s w :=
  ⟨[], h.trans (List.append_nil _).symm, operandTraffic_nil⟩

theorem State.storesOne.log {s w : State} (h : s.storesOne w) : w.log = s.log := by
  obtain ⟨l, v, -, rfl⟩ := h
  exact s.store_log l v

theorem State.storesFirst.log {s w : State} {f : Word → Word → Word} (h : s.storesFirst f w) : w.log = s.log := by
  obtain ⟨l1, l2, -, -, rfl⟩ := h
  exact s.store_log l1 _

/-- The copy of a 64-bit unit issues the widths of operand accesses; the narrower copies do not (R140). -/
theorem logsOperandTraffic_copiedLogged (s : State) : LogsOperandTraffic s (s.copiedLogged .qword) :=
  (LogsOperandTraffic.of_log_eq (s.copied_log .qword)).note (operandTraffic_read64.append operandTraffic_write64)

/-- Every handler but those of the three narrow block copies issues transactions of operand accesses alone (R43, R95). -/
theorem handlerOf_logsOperandTraffic {i : Instr} (s : State) (hi : i.unitSize = none ∨ i.unitSize = some .qword) :
    LogsOperandTraffic s (handlerOf Bus.ram64 i s).state := by
  have hn (w : State) (ts : List Transaction) (ht : OperandTraffic ts) (h : LogsOperandTraffic s w) := h.note ht
  have hfailed (w : State) (h : w = s) : LogsOperandTraffic s w := h ▸ .refl s
  have hstored (w : State) (h : s.storesOne w) : LogsOperandTraffic s w := .of_log_eq h.log
  cases hshape : i.shape with
  | control =>
    rw [handlerOf_state_of_control s hshape]
    exact .refl s
  | unary =>
    obtain ⟨f, hf⟩ := handlerOf_of_unary hshape
    rw [hf]
    exact (unaryHandler_ends s f).state hn hstored hfailed
  | update =>
    obtain ⟨f, hf⟩ := handlerOf_of_update hshape
    rw [hf]
    exact (updateHandler_ends s f).state hn hstored hfailed
  | shift =>
    obtain ⟨f, hf⟩ := handlerOf_of_shift hshape
    rw [hf]
    refine (shiftHandler_ends s f).state hn ?_ hfailed
    rintro w ⟨w', c, hw', rfl⟩
    exact .of_log_eq hw'.log
  | compare =>
    obtain ⟨z, n, hzn⟩ := handlerOf_of_compare hshape
    rw [hzn]
    refine (compareHandler_ends s z n).state hn ?_ hfailed
    rintro w ⟨b, c, rfl⟩
    exact .of_log_eq rfl
  | exchange =>
    obtain ⟨f, hf⟩ := handlerOf_of_exchange hshape
    rw [hf]
    refine (exchangeHandler_ends s f).state hn ?_ fun w hw => hw.elim (hfailed w) fun h => .of_log_eq h.log
    rintro w ⟨s1, m, v, hs1, -, rfl⟩
    exact .of_log_eq ((s1.store_log m v).trans hs1.log)
  | compareExchange =>
    rw [handlerOf_of_compareExchange hshape]
    exact (compareExchangeHandler_ends s).state hn (fun w hw => hw.elim (hfailed w) (hstored w)) hfailed
  | block =>
    obtain ⟨u, hu⟩ := unitSize_of_block hshape
    obtain rfl : u = .qword := by
      obtain hi | hi := hi
      · cases hi.symm.trans hu
      · exact Option.some.inj (hu.symm.trans hi)
    have hcopy := logsOperandTraffic_copiedLogged s
    rw [handlerOf_of_unitSize hu]
    refine (blockHandler_ends s .qword).state hn ?_ ?_
    · rintro w ⟨a, b, rfl⟩
      exact hcopy
    · rintro w (rfl | ⟨a, rfl⟩)
      · exact hcopy
      · exact hcopy

/-- Settles O15: the fetch first, then the transactions of the handler. -/
theorem narrowAccessOnlyInBlockCopies : Obligations.NarrowAccessOnlyInBlockCopies := by
  intro s t i hl hi h
  obtain ⟨-, he⟩ := exec_of_step hl h
  obtain ⟨rest, hlog, hrest⟩ := handlerOf_logsOperandTraffic s.fetched hi
  refine ⟨rest, ?_, hrest⟩
  rw [exec_log he, hlog, fetched_eq, State.note_log, List.append_assoc]
  rfl

end Sys2Proof.Machine
end

section
/-! The memory and the register views (R13, R44, R57), and what the overlap of the operand slots forces (R201, R202). -/

namespace Sys2Proof.Machine

/-! ## Narrower reads (R44) -/

section
variable (m : Memory) (a : Word)

theorem Memory.extractLsb'_read16 : (m.read16 a).extractLsb' 0 8 = m.read8 a := BitVec.extractLsb'_append_eq_right

theorem Memory.extractLsb'_read32 : (m.read32 a).extractLsb' 0 16 = m.read16 a := BitVec.extractLsb'_append_eq_right

theorem Memory.extractLsb'_read64 : (m.read64 a).extractLsb' 0 32 = m.read32 a := BitVec.extractLsb'_append_eq_right

end

/-- Settles O52: each read is made of two reads of half its width, the low half at the same address. -/
theorem narrowReadsAreLowOrder : Obligations.NarrowReadsAreLowOrder := by
  intro m a
  have h32 := m.extractLsb'_read64 a
  have h16 : (m.read64 a).extractLsb' 0 16 = m.read16 a := by
    rw [← m.extractLsb'_read32 a, ← h32, BitVec.extractLsb'_extractLsb'_of_le (by omega)]
  refine ⟨h16.symm, h32.symm, ?_⟩
  rw [← m.extractLsb'_read16 a, ← h16, BitVec.extractLsb'_extractLsb'_of_le (by omega)]

/-! ## Each byte of a read (R57) -/

section
variable (m : Memory) (a : Word)

/-- Of two halves of `w` bits, bytes below `w` are of the low half and bytes from `w` on of the high half. -/
theorem extractLsb'_append_byte {w : Nat} (hi lo : BitVec w) (k i : Nat) (hw : w = 8 * k) :
    (hi ++ lo).extractLsb' (8 * i) 8 = if i < k then lo.extractLsb' (8 * i) 8 else hi.extractLsb' (8 * (i - k)) 8 := by
  split_ifs with h
  · exact BitVec.extractLsb'_append_eq_of_add_le (by omega)
  · have hstart : 8 * i - w = 8 * (i - k) := by omega
    rw [BitVec.extractLsb'_append_eq_of_le (by omega), hstart]

theorem Memory.read16_byte {i : Nat} (hi : i < 2) :
    (m.read16 a).extractLsb' (8 * i) 8 = m.read8 (a + BitVec.ofNat 64 i) := by
  rw [Memory.read16, extractLsb'_append_byte _ _ 1 i rfl]
  split_ifs with h
  · obtain rfl : i = 0 := by omega
    rw [BitVec.add_zero]
    exact BitVec.extractLsb'_eq_self
  · obtain rfl : i = 1 := by omega
    exact BitVec.extractLsb'_eq_self

theorem add_ofNat_sub (a : Word) {k i : Nat} (h : k ≤ i) :
    a + BitVec.ofNat 64 k + BitVec.ofNat 64 (i - k) = a + BitVec.ofNat 64 i := by
  rw [BitVec.add_assoc, ← BitVec.ofNat_add, Nat.add_sub_of_le h]

theorem Memory.read32_byte {i : Nat} (hi : i < 4) :
    (m.read32 a).extractLsb' (8 * i) 8 = m.read8 (a + BitVec.ofNat 64 i) := by
  rw [Memory.read32, extractLsb'_append_byte _ _ 2 i rfl]
  split_ifs with h
  · exact m.read16_byte a h
  · exact (m.read16_byte (a + 2) (by omega)).trans (congrArg _ (add_ofNat_sub a (k := 2) (by omega)))

theorem Memory.read64_byte {i : Nat} (hi : i < 8) :
    (m.read64 a).extractLsb' (8 * i) 8 = m.read8 (a + BitVec.ofNat 64 i) := by
  rw [Memory.read64, extractLsb'_append_byte _ _ 4 i rfl]
  split_ifs with h
  · exact m.read32_byte a h
  · exact (m.read32_byte (a + 4) (by omega)).trans (congrArg _ (add_ofNat_sub a (k := 4) (by omega)))

end

/-- Settles O53: byte by byte for the reads; a write is read back whole, so its bytes are those of the read. -/
theorem memoryIsRam64 : Obligations.MemoryIsRam64 := by
  refine ⟨fun m a i => ⟨m.read16_byte a, m.read32_byte a, m.read64_byte a⟩, fun m a b hw => ?writes, fun _ => rfl⟩
  case writes =>
    refine ⟨fun v => ⟨m.read8_write8_same a v hw, m.read8_write8_out a b v⟩,
      fun v => ⟨fun i hi => ?_, m.read8_write16_out a b v⟩, fun v => ⟨fun i hi => ?_, m.read8_write32_out a b v⟩,
      fun v => ⟨fun i hi => ?_, m.read8_write64_out a b v⟩⟩
    · rw [← Memory.read16_byte _ a hi, m.read16_write16_same a v hw]
    · rw [← Memory.read32_byte _ a hi, m.read32_write32_same a v hw]
    · rw [← Memory.read64_byte _ a hi, m.read64_write64_same a v hw]

/-! ## The views of a register value (R13) -/

/-- The bits of lane `i` are the `w` bits from `w * i` on; a lane written changes those and no other. -/
theorem getLsbD_laneSet (w i : Nat) (v : Word) (x : BitVec w) {n : Nat} (hn : n < 64) (hw : w ≤ 64) :
    (laneSet w i v x).getLsbD n = if w * i ≤ n ∧ n < w * i + w then x.getLsbD (n - w * i) else v.getLsbD n := by
  rw [laneSet, BitVec.getLsbD_or, BitVec.getLsbD_and, BitVec.getLsbD_not, BitVec.getLsbD_shiftLeft,
    BitVec.getLsbD_shiftLeft, BitVec.getLsbD_setWidth, BitVec.getLsbD_setWidth, BitVec.getLsbD_allOnes]
  by_cases hlow : n < w * i
  · simp [hn, hlow, show ¬ w * i ≤ n by omega]
  · by_cases hhigh : n < w * i + w
    · simp [hn, hlow, hhigh, show w * i ≤ n by omega, show n - w * i < w by omega, show n - w * i < 64 by omega]
    · simp [hn, hlow, hhigh, show ¬ n - w * i < w by omega, x.getLsbD_of_ge (n - w * i) (by omega)]

/-- A lane read after a lane written: the value written, or the lane as it was. -/
theorem laneGet_laneSet (w i j : Nat) (v : Word) (x : BitVec w) (hj : w * j + w ≤ 64) :
    laneGet w j (laneSet w i v x) = if j = i then x else laneGet w j v := by
  refine BitVec.eq_of_getLsbD_eq fun k hk => ?_
  rw [laneGet, BitVec.getLsbD_extractLsb', getLsbD_laneSet w i v x (by omega) (by omega)]
  split_ifs with hin hji hji
  · subst hji
    simp [hk]
  · have hlt : j < i + 1 ∧ i < j + 1 := by
      constructor <;> refine Nat.lt_of_mul_lt_mul_left (a := w) ?_ <;> rw [Nat.mul_succ] <;> omega
    omega
  · subst hji
    omega
  · rw [laneGet, BitVec.getLsbD_extractLsb']

/-- The three fields of the double-precision view are the 64 bits in their order (log 19). -/
theorem binary64Put_binary64Get (v : Word) : binary64Put (binary64Get v) = v := by
  have hsign : BitVec.ofBool (v.getLsbD 63) = v.extractLsb' 63 1 := by
    refine BitVec.eq_of_getLsbD_eq fun i hi => ?_
    obtain rfl : i = 0 := by omega
    simp
  rw [binary64Put, binary64Get, hsign, BitVec.extractLsb'_append_extractLsb'_eq_extractLsb' (rfl : 63 = 52 + 11),
    BitVec.extractLsb'_append_extractLsb'_eq_extractLsb' (rfl : 52 = 0 + 52)]
  exact BitVec.extractLsb'_eq_self

/-- Settles O56: the law of the lanes at the three widths, and the fields of the double-precision view. -/
theorem registerViewsAlias : Obligations.RegisterViewsAlias := fun v =>
  ⟨fun i j x _ hj => laneGet_laneSet 32 i j v x (by omega), fun i j x _ hj => laneGet_laneSet 16 i j v x (by omega),
    fun i j x _ hj => laneGet_laneSet 8 i j v x (by omega), binary64Put_binary64Get v⟩

/-! ## The overlap of mode field and operand 2 (R201) -/

/-- The selector of operand 2 is bits 5:3 of the operand value itself, both being read at `slot(2)` (R87). -/
theorem State.selector_two (s : State) : s.selector .two = (s.operandValue .two).extractLsb' 3 3 := by
  have h16 : s.mem.read16 (s.slot 2) = (s.operandValue .two).extractLsb' 0 16 := (narrowReadsAreLowOrder _ _).1
  change (s.mem.read16 (s.slot 2)).extractLsb' 3 3 = _
  rw [h16, BitVec.extractLsb'_extractLsb'_of_le (by omega)]

/-- So that selector is the value divided by 8, modulo 8. -/
theorem State.selector_two_toNat (s : State) : (s.selector .two).toNat = (s.operandValue .two).toNat / 8 % 8 := by
  rw [s.selector_two, BitVec.extractLsb'_toNat, Nat.shiftRight_eq_div_pow]

/-- An operand value that names a register is 0 to 10; with selector 1 it is 8, 9 or 10 (R201). -/
theorem State.regIndex_two_cases {s : State} {r : Reg} (h1 : s.selector .two = 1)
    (hr : Reg.ofIndex (s.operandValue .two) = some r) : r = .sp ∨ r = .pc ∨ r = .flags := by
  have hsel := s.selector_two_toNat
  rw [h1, (Reg.ofIndex_eq_some _ r).1 hr] at hsel
  cases r
  case sp => exact .inl rfl
  case pc => exact .inr (.inl rfl)
  case flags => exact .inr (.inr rfl)
  all_goals exact absurd hsel (by decide)

/-- Settles O58: with tag 3 or 5 the value is at least 24, with tag 1 at least 8. -/
theorem operandTwoIsConfined : Obligations.OperandTwoIsConfined := by
  intro s
  have hsel := s.selector_two_toNat
  constructor
  · intro h
    refine locate_of_ofIndex_none s (.inr h) ((Reg.ofIndex_eq_none _).2 ?_)
    obtain h | h := h
    · rw [h, show (3 : Selector).toNat = 3 from rfl] at hsel
      omega
    · rw [h, show (5 : Selector).toNat = 5 from rfl] at hsel
      omega
  · intro h1
    rw [State.location, h1]
    cases hr : Reg.ofIndex (s.operandValue .two) with
    | none => exact .inr (.inr (.inr (locate_of_ofIndex_none s (.inl rfl) hr)))
    | some r =>
      rw [locate_rd s hr]
      obtain rfl | rfl | rfl := State.regIndex_two_cases h1 hr
      · exact .inl rfl
      · exact .inr (.inl rfl)
      · exact .inr (.inr (.inl rfl))

/-! ## An instruction before `hlt` or `nop` (R202) -/

/-- The selectors of the operands are bits 2:0 and 5:3 of the word at `slot(2)`; in the keys of `hlt` and `nop` both are 0,
so both operands are immediate. -/
theorem State.location_of_control_key {s : State} {k : Operand} (hk : k = .one ∨ k = .two)
    (h : s.mem.read32 (s.slot 2) = encode .hlt ∨ s.mem.read32 (s.slot 2) = encode .nop) :
    s.location k = .ok (.literal (s.operandValue k)) := by
  have h0 : s.mem.read16 (s.slot 2) = 0 := by
    rw [← Memory.extractLsb'_read32]
    obtain h | h := h <;> rw [h] <;> decide
  have hsel : s.selector k = 0 := by
    rw [State.selector, h0]
    obtain rfl | rfl := hk <;> rfl
  rw [State.location, hsel, locate_imm]

/-- Settles O59: the write goes to an immediate operand (O34), and the compares write none. -/
theorem writersBeforeHltOrNopFail : Obligations.WritersBeforeHltOrNopFail := by
  intro s t i hl hkey h
  obtain ⟨hr, he⟩ := exec_of_step hl h
  have hb : s.fetched.bus = .bound := (exec_next he).1
  have h1 : s.fetched.location .one = .ok (.literal _) := State.location_of_control_key (s := s) (.inl rfl) hkey
  have h2 : s.fetched.location .two = .ok (.literal _) := State.location_of_control_key (s := s) (.inr rfl) hkey
  refine ⟨fun hi => ?writers, fun hi => ?compares⟩
  case writers =>
    obtain ⟨hunary, hboth⟩ := immediateDestinationFails i s.fetched _ _ hb h1 rfl
    by_cases hu : i.shape = .unary
    · cases he.symm.trans (hunary hu)
      exact ⟨rfl, rfl, rfl, rfl⟩
    · have hshape : i.shape = .update ∨ i.shape = .shift ∨ i.shape = .exchange ∨
          (i.shape = .compareExchange ∧ s.fetched.valueAt (.literal (s.operandValue .one)) = s.fetched.get .r0) := by
        obtain hi | hi | hi | hi := hi
        · exact absurd hi hu
        · exact .inl hi
        · exact .inr (.inl hi)
        · exact .inr (.inr (.inl hi))
      cases he.symm.trans (hboth hshape h2)
      exact ⟨rfl, rfl, rfl, rfl⟩
  case compares =>
    obtain ⟨z, n, hzn⟩ := handlerOf_of_compare hi
    have hok := compareHandler_of_ok h1 h2 z n
    rw [← hzn] at hok
    cases he.symm.trans (exec_of_ok hb hok)
    exact ⟨hr, rfl⟩

end Sys2Proof.Machine
end

section
/-! When a step ends in `error` (R151, R154, R155, R157), and runs, interrupts and buses as a whole (R42, R83, R171, R195,
R196). -/

namespace Sys2Proof.Machine

/-! ## Steps that end in `error` -/

theorem State.takeFailure_runState_eq_error {f : Failure} (s : State) (hf : f ≠ .halted) :
    (s.takeFailure f).runState = .error := by
  cases f with
  | halted => exact absurd rfl hf
  | invalidAddressingMode tag => rfl
  | registerIndexOutOfRange index => rfl

/-- An instruction other than `hlt` ends in `error` exactly when its handler does not complete (R82, R151). -/
theorem exec_error_iff {cond : Prop} {completed failed : State → Prop} {i : Instr} {s t : State}
    (hends : Ends cond completed failed (handlerOf Bus.ram64 i s)) (hi : i ≠ .hlt) (hr : s.runState = .running)
    (h : exec i s = .next t) : t.runState = .error ↔ ¬ cond := by
  have hrun := handlerOf_keeps (kept_runState .running) i s hr
  have hraises := handlerOf_raisesOnly operandFailures_ne_halted hi s
  obtain ⟨-, ⟨s', hok, rfl⟩ | ⟨f, s', hraised, rfl⟩⟩ := exec_next h
  · rw [hok] at hends hrun
    cases hends with
    | ok w ts hc _ _ => exact ⟨fun he => (nomatch hrun.symm.trans he), absurd hc⟩
  · rw [hraised] at hends hraises
    cases hends with
    | raised f w ts hc _ _ => exact ⟨fun _ => hc, fun _ => State.takeFailure_runState_eq_error _ hraises⟩

theorem exec_control_ne_error {i : Instr} {s t : State} (hi : i.shape = .control) (hr : s.runState = .running)
    (h : exec i s = .next t) : t.runState ≠ .error := by
  obtain ⟨hb, -⟩ := exec_next h
  cases i
  case nop =>
    cases h.symm.trans (exec_nop hb)
    exact fun he => nomatch hr.symm.trans he
  case hlt =>
    cases h.symm.trans (exec_hlt hb)
    exact nofun
  all_goals cases hi

/-- Settles O51: each shape's handler completes exactly under its condition; the fetch changes the log only. -/
theorem stepErrsExactlyOnOperandFailure : Obligations.StepErrsExactlyOnOperandFailure := by
  intro s t h
  refine ⟨fun hmiss => ?miss, fun i hl => ?instr⟩
  case miss =>
    obtain ⟨-, -, ⟨-, rfl⟩ | ⟨i, hl, -⟩⟩ := step_next h
    · exact nofun
    · cases hmiss.symm.trans hl
  case instr =>
    obtain ⟨hr, he⟩ := exec_of_step hl h
    have herr {cond : Prop} {completed failed : State → Prop} {r : State → Result Unit}
        (hends : Ends cond completed failed (r s.fetched)) (hi : handlerOf Bus.ram64 i = r) (hhlt : i ≠ .hlt) :
        t.runState = .error ↔ ¬ cond :=
      exec_error_iff (s := s.fetched) (hi ▸ hends) hhlt hr he
    refine ⟨fun hi => exec_control_ne_error (s := s.fetched) hi hr he, fun hi => ?unary, fun hi => ?update,
      fun hi => ?compare, fun hi => ?compareExchange, fun a b hi => ?xchg, fun a b hi => ?xadd, fun u hu => ?block⟩
    case unary =>
      obtain ⟨f, hf⟩ := handlerOf_of_unary hi
      exact herr (unaryHandler_ends s.fetched f) hf (by rintro rfl; cases hi)
    case update =>
      obtain hi | hi := hi
      · obtain ⟨f, hf⟩ := handlerOf_of_update hi
        exact herr (updateHandler_ends s.fetched f) hf (by rintro rfl; cases hi)
      · obtain ⟨f, hf⟩ := handlerOf_of_shift hi
        exact herr (shiftHandler_ends s.fetched f) hf (by rintro rfl; cases hi)
    case compare =>
      obtain ⟨z, n, hzn⟩ := handlerOf_of_compare hi
      exact herr (compareHandler_ends s.fetched z n) hzn (by rintro rfl; cases hi)
    case compareExchange =>
      have hx := herr (compareExchangeHandler_ends s.fetched) (handlerOf_of_compareExchange hi) (by rintro rfl; cases hi)
      simpa only [fetched_eq, State.note_location, State.note_valueAt, State.note_get, State.note_canRead] using hx
    case xchg =>
      subst hi
      have hx := herr (exchangeHandler_ends s.fetched fun _ b => b) rfl nofun
      simpa only [fetched_eq, State.note_location, State.note_valueAt, State.note_store, State.note_canWrite] using hx
    case xadd =>
      subst hi
      have hx := herr (exchangeHandler_ends s.fetched fun a b => a + b) rfl nofun
      simpa only [fetched_eq, State.note_location, State.note_valueAt, State.note_store, State.note_canWrite] using hx
    case block =>
      have hx := herr (blockHandler_ends s.fetched u) (handlerOf_of_unitSize hu) (by rintro rfl; cases hu)
      simpa only [fetched_eq, State.note_copied, State.note_location, State.note_valueAt, State.note_get, State.note_set,
        State.note_canRead] using hx

/-! ## Calls in the wrong run state (R196) -/

theorem step_of_ne_running {s : State} (h : s.runState ≠ .running) : step s = .refused (.wrongState s.runState) := by
  refine step_not_ready s _ ?_
  cases hr : s.runState with
  | running => exact absurd hr h
  | init | halted | error => simp only [State.notReady, hr]

theorem start_of_ne_init {s : State} (h : s.runState ≠ .init) : start s = .refused (.wrongState s.runState) := by
  cases hr : s.runState with
  | init => exact absurd hr h
  | running | halted | error => simp only [start, hr]

theorem run_of_ne_init (fuel : Nat) {s : State} (h : s.runState ≠ .init) :
    run fuel s = .refused (.wrongState s.runState) := by
  simp only [run, runBy, start_of_ne_init h]

/-- Settles O12: in this model the run state is looked at before the bus. -/
theorem wrongStateIsRefused : Obligations.WrongStateIsRefused := fun _ fuel =>
  ⟨fun h => ⟨⟨_, step_of_ne_running h⟩, fun _ => step_of_ne_running h⟩,
    fun h => ⟨⟨_, run_of_ne_init fuel h⟩, fun _ => run_of_ne_init fuel h⟩, start_of_ne_init⟩

/-! ## The decoded instruction, and `hlt` -/

/-- Settles O10: ready, with a key that decodes, the step is the execution. -/
theorem stepRunsTheDecodedInstr : Obligations.StepRunsTheDecodedInstr := by
  intro s i hr hb hd
  have hl : lookup s.key = some i := (lookup_eq_some s.key i).2 hd
  rw [step_ready s ((notReady_eq_none s).2 ⟨hr, hb⟩), hl]
  rfl

/-- Settles O23: the one key, and the failure `Halted` taken in the state as it is. -/
theorem hltResult : Obligations.HltResult := ⟨lookup_eq_some_hlt, fun _ hb => exec_hlt hb⟩

/-! ## Runs -/

/-- A ready core is not refused a step. -/
theorem step_of_ready {s : State} (hr : s.runState = .running) (hb : s.bus = .bound) : ∃ t, step s = .next t := by
  rw [step_ready s ((notReady_eq_none s).2 ⟨hr, hb⟩)]
  cases lookup s.key with
  | none => exact ⟨_, rfl⟩
  | some i => exact exec_bound i s.fetched hb

theorem start_of_init {s : State} (hr : s.runState = .init) : start s = .next { s with runState := .running } := by
  simp only [start, hr]

theorem runStepsBy_of_ne_running {st : State → Host.Outcome State Fault Refusal} {s : State} (n : Nat)
    (h : s.runState ≠ .running) : runStepsBy st n s = .next s := by
  cases n with
  | zero => rfl
  | succ n =>
    cases hr : s.runState with
    | running => exact absurd hr h
    | init | halted | error => simp only [runStepsBy, hr]

theorem core_run_succ {s t : State} (n : Nat) (h : step s = .next t) :
    Host.Core.run Sys2Proof.core (n + 1) s = Host.Core.run Sys2Proof.core n t := by
  have hcore : Sys2Proof.core.step s = .next t := h
  simp only [Host.Core.run, hcore]

/-- The steps of `run()` are the host's own iteration of `step`, up to the first state that is not running (R83). -/
theorem runSteps_eq_core_run (fuel : Nat) (s : State) (hb : s.bus = .bound) :
    ∃ (t : State) (k : Nat), runSteps fuel s = .next t ∧ k ≤ fuel ∧ Host.Core.run Sys2Proof.core k s = .next t ∧
      (k = fuel ∨ t.runState ≠ .running) ∧
      ∀ (j : Nat) (u : State), j < k → Host.Core.run Sys2Proof.core j s = .next u → u.runState = .running := by
  induction fuel generalizing s with
  | zero => exact ⟨s, 0, rfl, le_rfl, rfl, .inl rfl, fun j u hj => absurd hj j.not_lt_zero⟩
  | succ n ih =>
    by_cases hr : s.runState = .running
    · obtain ⟨s1, hs1⟩ := step_of_ready hr hb
      obtain ⟨t, k, hrun, hk, hcore, hend, hbefore⟩ := ih s1 ((stepKeepsTheBusBinding s s1 hs1).trans hb)
      refine ⟨t, k + 1, (runStepsBy_succ n hr hs1).trans hrun, Nat.succ_le_succ hk, (core_run_succ k hs1).trans hcore,
        hend.imp_left (congrArg _), fun j u hj hu => ?_⟩
      cases j with
      | zero =>
        cases hu
        exact hr
      | succ j => exact hbefore j u (Nat.lt_of_succ_lt_succ hj) ((core_run_succ j hs1).symm.trans hu)
    · exact ⟨s, 0, runStepsBy_of_ne_running _ hr, Nat.zero_le _, rfl, .inr hr, fun j u hj => absurd hj j.not_lt_zero⟩

/-- Settles O50: `run` is `start` and the steps from there. -/
theorem runIsStartThenSteps : Obligations.RunIsStartThenSteps := by
  intro fuel s hb hr
  have hstart := start_of_init hr
  have hrun : run fuel s = runSteps fuel { s with runState := .running } := by
    simp only [run, runBy, hstart, hb, runSteps]
  rw [hrun]
  exact ⟨hstart, runSteps_eq_core_run fuel _ hb⟩

/-! ## The return sequence after an entry (R171) -/

/-- The registers after the return sequence: the flags from `sp`, `pc` from `sp + 8`, and `sp` up by 16. -/
theorem returnSequence_get (s : State) (r : Reg) :
    (returnSequence Bus.ram64 s).get r =
      if r = .pc then s.mem.read64 (s.get .sp + 8)
      else if r = .sp then s.get .sp + 8 + 8
      else if r = .flags then s.mem.read64 (s.get .sp) else s.get r := by
  simp only [returnSequence, pop_ram64, State.note_set, State.note_get, State.note_mem, State.set_mem, State.set_get,
    reduceCtorEq, if_false, if_true]
  split_ifs <;> rfl

theorem returnSequence_takeInterrupt_regs (base vector : Word) (b : Bool) {s : State} (hw : s.mem.wf = true) :
    (returnSequence Bus.ram64 (takeInterrupt Bus.ram64 base vector b s)).regs = s.regs := by
  obtain ⟨-, hother, -, -, -, hsaved⟩ := takeInterrupt_common base vector b s
  obtain ⟨hflags, hpc⟩ := hsaved hw
  refine Regs.ext_get _ _ fun r => ?_
  change (returnSequence Bus.ram64 (takeInterrupt Bus.ram64 base vector b s)).get r = s.get r
  rw [returnSequence_get, hflags, hpc]
  split_ifs with h1 h2 h3
  · rw [h1]
  · rw [h2, takeInterrupt_get_sp]
    ring
  · rw [h3]
  · exact hother r h2 h3 h1

theorem hostReturn_of_bound {s : State} (hb : s.bus = .bound) : hostReturn s = .next (returnSequence Bus.ram64 s) := by
  simp only [hostReturn, hostReturnOn, hb]

/-- Settles O47: both entries save the same two words, which the sequence puts back. -/
theorem returnUndoesEntry : Obligations.ReturnUndoesEntry := by
  intro vector s t hw hentry
  have hb : s.bus = .bound := by
    cases hb : s.bus with
    | bound => rfl
    | unbound =>
      obtain ⟨-, h⟩ | h := hentry
      · cases (irq_of_unbound vector hb).symm.trans h
      · cases (nmi_of_unbound vector hb).symm.trans h
  obtain ⟨base, b, rfl⟩ : ∃ base b, t = takeInterrupt Bus.ram64 base vector b s := by
    obtain ⟨hI, h⟩ | h := hentry
    · exact ⟨_, _, Host.Outcome.next.inj (h.symm.trans (irq_of_enabled vector hb hI))⟩
    · exact ⟨_, _, Host.Outcome.next.inj (h.symm.trans (nmi_of_bound vector hb))⟩
  exact ⟨_, hostReturn_of_bound ((takeInterrupt_bus base vector b s).trans hb),
    returnSequence_takeInterrupt_regs base vector b hw,
    (returnSequence_runState ..).trans (takeInterrupt_runState ..), returnSequence_mem _⟩

/-! ## Two buses that answer alike (R42) -/

section
variable {B C : Bus} {R : Memory → Memory → Prop} {s t : State}

theorem State.alike_takeFailure (h : s.alike R t) (f : Failure) : (s.takeFailure f).alike R (t.takeFailure f) := by
  obtain ⟨hregs, -, hbus, -, hlog, hmem⟩ := h
  exact ⟨hregs, rfl, hbus, rfl, hlog, hmem⟩

theorem State.alike_done (h : s.alike R t) : s.done.alike R t.done := by
  have hadv : s.advance.alike R t.advance := by
    rw [State.advance, State.alike_get h]
    exact State.alike_set h _ _
  obtain ⟨hregs, hrun, hbus, -, hlog, hmem⟩ := hadv
  exact ⟨hregs, hrun, hbus, rfl, hlog, hmem⟩

theorem finish_alike {x y : Result Unit} (h : ResultsAlike R x y) : outcomesAlike R (finish x) (finish y) := by
  cases h with
  | ok v s t h => exact .inr ⟨_, _, rfl, rfl, State.alike_done h⟩
  | raised f s t h => exact .inr ⟨_, _, rfl, rfl, State.alike_takeFailure h f⟩

theorem State.alike_bus (h : s.alike R t) : s.bus = t.bus := by
  obtain ⟨-, -, hbus, -⟩ := h
  exact hbus

theorem execOn_alike (hA : BusesAlike B C R) (i : Instr) (h : s.alike R t) :
    outcomesAlike R (execOn B i s) (execOn C i t) := by
  unfold execOn execute
  rw [State.alike_bus h]
  cases t.bus with
  | unbound => exact .inl ⟨_, rfl, rfl⟩
  | bound => exact finish_alike (handlerOf_alike hA i h)

theorem State.alike_notReady (h : s.alike R t) : s.notReady = t.notReady := by
  obtain ⟨-, hrun, hbus, -⟩ := h
  rw [State.notReady, hrun, hbus, State.notReady]

theorem stepOn_alike (hA : BusesAlike B C R) (h : s.alike R t) : outcomesAlike R (stepOn B s) (stepOn C t) := by
  obtain ⟨hkey, hfetched⟩ := busRead32_alike hA (t.get .pc) h
  unfold stepOn stepWith
  rw [State.alike_notReady h]
  cases t.notReady with
  | some r => exact .inl ⟨r, rfl, rfl⟩
  | none =>
    simp only [fetch, State.alike_get h, hkey]
    cases lookup (busRead32 C (t.get .pc) t).1 with
    | none => exact .inr ⟨_, _, rfl, rfl, State.alike_takeFailure (State.alike_setFlag hfetched _ _) _⟩
    | some i => exact execOn_alike hA i hfetched

theorem push_alike (hA : BusesAlike B C R) (v : Word) (h : s.alike R t) : (push B v s).alike R (push C v t) := by
  unfold push
  rw [State.alike_get h]
  exact busWrite64_alike hA _ _ (State.alike_set h _ _)

theorem State.alike_entryFlags (h : s.alike R t) (b : Bool) : (s.entryFlags b).alike R (t.entryFlags b) := by
  cases b with
  | true => exact State.alike_setFlag (State.alike_setFlag h _ _) _ _
  | false => exact State.alike_setFlag h _ _

theorem takeInterrupt_alike (hA : BusesAlike B C R) (base vector : Word) (b : Bool) (h : s.alike R t) :
    (takeInterrupt B base vector b s).alike R (takeInterrupt C base vector b t) := by
  have hsaved := push_alike hA (t.get .flags) (push_alike hA (t.get .pc) h)
  obtain ⟨hvalue, hread⟩ := busRead64_alike hA (base + vector) (State.alike_entryFlags hsaved b)
  simp only [takeInterrupt, State.alike_get h, hvalue]
  exact State.alike_set hread _ _

theorem irqOn_alike (hA : BusesAlike B C R) (vector : Word) (h : s.alike R t) :
    outcomesAlike R (irqOn B vector s) (irqOn C vector t) := by
  unfold irqOn
  rw [State.alike_bus h, State.alike_getFlag h]
  cases t.bus with
  | unbound => exact .inl ⟨_, rfl, rfl⟩
  | bound =>
    refine .inr ⟨_, _, rfl, rfl, ?_⟩
    split
    · exact takeInterrupt_alike hA _ _ _ h
    · exact h

theorem nmiOn_alike (hA : BusesAlike B C R) (vector : Word) (h : s.alike R t) :
    outcomesAlike R (nmiOn B vector s) (nmiOn C vector t) := by
  unfold nmiOn
  rw [State.alike_bus h]
  cases t.bus with
  | unbound => exact .inl ⟨_, rfl, rfl⟩
  | bound => exact .inr ⟨_, _, rfl, rfl, takeInterrupt_alike hA _ _ _ h⟩

end

/-- Settles O60: every operation of the core goes alike on buses that answer alike. -/
theorem coreSeesTheBusOnlyThroughItsPort : Obligations.CoreSeesTheBusOnlyThroughItsPort :=
  ⟨step_eq_stepOn, fun _ _ _ _ _ vector hA h => ⟨stepOn_alike hA h, irqOn_alike hA vector h, nmiOn_alike hA vector h⟩⟩

end Sys2Proof.Machine
end
